-- ==== Sys2Proof/Word.lean ====
section
/-! DEFINITION. The two word types of the block (R11): a byte, and the 16-bit CRC word. -/

namespace Sys2Proof

/-- A byte: 8 bits, unsigned (R11). -/
abbrev Byte := BitVec 8

/-- The 16-bit CRC value (R11). -/
abbrev Word := BitVec 16

end Sys2Proof
end

