-- ==== Sys2Proof/Config.lean ====
section
/-! DEFINITION. The fixed constants of the protocol, the defaults of the configurable parameters, and the two values the
spec leaves open (R8, R10). Every literal is a named constant, so that a later audit changes one definition (R10). -/

namespace Sys2Proof.Config

/-- `FLAG`, the frame delimiter (R8, R91). -/
def flag : Byte := 0x7E#8

/-- `ESCAPE`, the escape marker (R8, R92). -/
def escape : Byte := 0x7D#8

/-- `XOR_MASK`, applied to an escaped byte (R8, R93). -/
def xorMask : Byte := 0x20#8

/-- The second half of the escape sequence for FLAG, 0x5E (R93). -/
def escapedFlag : Byte := flag ^^^ xorMask

/-- The second half of the escape sequence for ESCAPE, 0x5D (R93). -/
def escapedEscape : Byte := escape ^^^ xorMask

/-- `INITIATOR_ADDR` (R8, R96). -/
def initiatorAddr : Byte := 0x01#8

/-- `RESPONDER_ADDR` (R8, R96). -/
def responderAddr : Byte := 0x02#8

/-- `CMD_COMPLEMENT` (R8, R97). -/
def cmdComplement : Byte := 0x01#8

/-- `CMD_REVERSE` (R8, R97). -/
def cmdReverse : Byte := 0x02#8

/-- The CRC polynomial (R131). -/
def crcPoly : Word := 0x1021#16

/-- The CRC register's initial value (R131). -/
def crcInit : Word := 0xFFFF#16

/-- The CRC's final XOR (R131). -/
def crcXorOut : Word := 0xFFFF#16

/-- The default payload size `N` (R8). -/
def defaultN : Nat := 16

/-- The default queue capacity `C` (R8). -/
def defaultC : Nat := 8

/-- The default clock width `CLOCK_W` (R8, R239). -/
def defaultClockW : Nat := 32

/-- `REPLY_TIMEOUT_MS` before a PARAM line fixes it: an OPEN parameter without a default (R8, U10), so a constant nothing
can evaluate. DESIGN CHOICE, safe (log 5). -/
opaque replyTimeoutMs : Nat

/-- By how many milliseconds the clock advances before the `k`-th activation of the reference schedule: any amount
(R239, R320, U11). A free value. DESIGN CHOICE, safe (log 7). -/
opaque clockAdvance : Nat → Nat

end Sys2Proof.Config
end

