-- ==== Sys2Proof/Machine/Crc.lean ====
section
/-! DEFINITION. The FCS engine (40_crc16.md, R130 to R138): the 16-bit CRC and its split into the two bytes on the wire. -/

namespace Sys2Proof.Machine

/-- One of the eight iterations of R131: shift left, and XOR the polynomial when the top bit was set. -/
def crcShift (reg : Word) : Word :=
  if reg.msb then (reg <<< 1) ^^^ Config.crcPoly else reg <<< 1

/-- One byte of R131: XORed into the high byte of the register, then eight iterations. How the byte enters the register is
the spec's own reading (93_implementation_defined.md G1, log 19). -/
def crcByte (reg : Word) (b : Byte) : Word :=
  crcShift (crcShift (crcShift (crcShift (crcShift (crcShift (crcShift (crcShift
    (reg ^^^ (b.setWidth 16 <<< 8)))))))))

/-- `CRC16(bytes)` (R130, R131). -/
def crc16 (bytes : List Byte) : Word :=
  bytes.foldl crcByte Config.crcInit ^^^ Config.crcXorOut

/-- `FCS_first`, the byte sent first: the low-order byte of the word (R64, R99, R133). -/
def fcsFirst (crc : Word) : Byte := crc.extractLsb' 0 8

/-- `FCS_second`, the byte sent second: the high-order byte of the word (R64, R99, R133). -/
def fcsSecond (crc : Word) : Byte := crc.extractLsb' 8 8

/-- The CRC of a packet: address, control, payload in that order (R66, R134). -/
def packetCrc (address control : Byte) (payload : List Byte) : Word :=
  crc16 (address :: control :: payload)

end Sys2Proof.Machine
end

