-- ==== Sys2Proof/Machine/Framing.lean ====
section
/-! DEFINITION. The frame on the wire (30_encoding.md, R90 to R95, R101): stuffing, unstuffing, and the whole frame. -/

namespace Sys2Proof.Machine

/-- The bytes that are stuffed between the flags: FLAG and ESCAPE, and no other (R94). -/
def needsStuffing (b : Byte) : Bool := b == Config.flag || b == Config.escape

/-- The wire bytes of one data byte: itself, or ESCAPE and the byte XOR 0x20 (R93, R95). -/
def stuffByte (b : Byte) : List Byte :=
  if needsStuffing b then [Config.escape, b ^^^ Config.xorMask] else [b]

/-- The wire bytes of a sequence of data bytes. -/
def stuff : List Byte → List Byte
  | [] => []
  | b :: bs => stuffByte b ++ stuff bs

/-- The `N + 4` data bytes of a frame, before stuffing: address, control, payload and the two FCS bytes (R63, R90). -/
def frameData (address control : Byte) (payload : List Byte) : List Byte :=
  address :: control :: (payload ++
    [fcsFirst (packetCrc address control payload), fcsSecond (packetCrc address control payload)])

/-- The whole frame on the wire: the flags are never stuffed (R90, R91, R94). -/
def frameBytes (address control : Byte) (payload : List Byte) : List Byte :=
  Config.flag :: (stuff (frameData address control payload) ++ [Config.flag])

/-- The data bytes before a closing FLAG that is the last byte; `none` where a flag stands inside, none at the end, or
an ESCAPE has no second half. An escape of any byte is accepted (R102, R177). -/
def unstuffToFlag : List Byte → Option (List Byte)
  | [] => none
  | [b] => if b = Config.flag then some [] else none
  | b :: x :: rest =>
    if b = Config.flag then none
    else if b = Config.escape then (unstuffToFlag rest).map ((x ^^^ Config.xorMask) :: ·)
    else (unstuffToFlag (x :: rest)).map (b :: ·)

end Sys2Proof.Machine
end

