-- ==== Sys2Proof/Syntax.lean ====
section
/-! DEFINITION. The names of the block (stations, queues, stages, states, conditions, registers), the instructions, and the
words they are fetched from. `Instr` has one constructor for each row of spec/opcode_table.json, in the table's order. -/

namespace Sys2Proof

/-- The two peers (R2, R283). -/
inductive Station where
  | initiator
  | responder
  deriving DecidableEq, Repr

/-- The two byte queues: `QA` carries initiator to responder, `QB` the other way (R3, R61). -/
inductive Queue where
  | qa
  | qb
  deriving DecidableEq, Repr

/-- `tx.stage` (R24). -/
inductive Stage where
  | startFlag
  | address
  | control
  | payload
  | fcsHigh
  | fcsLow
  | endFlag
  | done
  deriving DecidableEq, Repr

/-- `I.state` (R41). -/
inductive IState where
  | prepare
  | transmit
  | awaitReply
  | receive
  | process
  deriving DecidableEq, Repr

/-- `R.state` (R42). -/
inductive RState where
  | waitCommand
  | receive
  | process
  | reply
  deriving DecidableEq, Repr

/-- The command variant a control byte resolves to (R105, R245). -/
inductive Command where
  | complement
  | reverse
  | unknown (code : Byte)
  deriving DecidableEq, Repr

/-- The conditions of the error taxonomy (R260). -/
inductive Condition where
  | backpressure
  | frameIncomplete
  | frameLengthError
  | addressMismatch
  | unknownCommand
  | checksumMismatch
  | replyTimeout
  deriving DecidableEq, Repr

/-- The reply deadline: what `SetDeadline` returns and `I.deadline` holds (R44, R240). -/
structure Deadline where
  armed : Bool
  tStart : Nat
  duration : Nat
  deriving DecidableEq, Repr

/-- The parameters a PARAM line can name (R8, R118, R250). -/
inductive ParamName where
  | n
  | c
  | replyTimeoutMs
  | clockW
  deriving DecidableEq, Repr

/-- The names under which a register dump (R105, R252) finds a register of a station, a queue or the environment. -/
inductive RegName where
  | iState
  | rState
  | packetAddress
  | packetControl
  | packetPayload
  | txStage
  | txCursor
  | txFcsFirst
  | txFcsSecond
  | txEscPending
  | txCurByte
  | rxStarted
  | rxAssembled
  | rxValid
  | rxAddress
  | rxControl
  | rxPayload
  | rxPos
  | rxUnescPending
  | rxFcsFirst
  | rxFcsSecond
  | resultControl
  | resultPayload
  | deadlineArmed
  | deadlineStart
  | deadlineDuration
  | outQueueLength
  | outQueueByte
  | clock
  | cfgCommand
  | cfgPayload
  | readyCount
  deriving DecidableEq, Repr

/-- One register: its name, the station it belongs to (for a queue, the station that writes it; ignored where the name
fixes the place), and the index inside an array or a queue (0 elsewhere). -/
structure Reg where
  name : RegName
  st : Station
  index : Nat
  deriving DecidableEq, Repr

/-- The predicates of an EXPECT line (R118 leaves their form open): comparisons of registers with numbers, and the
connectives. DESIGN CHOICE, safe (log 16). -/
inductive Pred where
  | always
  | eq (r : Reg) (v : Nat)
  | lt (r : Reg) (v : Nat)
  | neg (p : Pred)
  | conj (p q : Pred)
  | disj (p q : Pred)
  deriving DecidableEq, Repr

/-- The instructions: one constructor for each row of spec/opcode_table.json. -/
inductive Instr where
  -- wire bytes and wire pairs, consumed by the receiver of a station
  | flag (st : Station)
  | escape (st : Station)
  | data (st : Station) (d : Byte)
  | escaped (st : Station) (x : Byte)
  | escFlag (st : Station)
  | escEscape (st : Station)
  | escOther (st : Station) (x : Byte)
  -- whole frames, and the check field
  | frame (st : Station) (address control : Byte) (payload : List Byte)
  | request
  | reply
  | fcs (address control : Byte) (payload : List Byte)
  -- field values at the receiver of a station
  | addrInitiator (st : Station)
  | addrResponder (st : Station)
  | addrOther (st : Station) (a : Byte)
  | cmdComplement (st : Station)
  | cmdReverse (st : Station)
  | cmdReserved (st : Station) (c : Byte)
  -- routing positions
  | posAddress (st : Station) (d : Byte)
  | posControl (st : Station) (d : Byte)
  | posPayload (st : Station) (d : Byte)
  | posFcsFirst (st : Station) (d : Byte)
  | posFcsSecond (st : Station) (d : Byte)
  | posOverflow (st : Station) (d : Byte)
  -- enumeration values, read against the register that holds the enumeration
  | stageStartFlag (st : Station)
  | stageAddress (st : Station)
  | stageControl (st : Station)
  | stagePayload (st : Station)
  | stageFcsHigh (st : Station)
  | stageFcsLow (st : Station)
  | stageEndFlag (st : Station)
  | stageDone (st : Station)
  | istatePrepare
  | istateTransmit
  | istateAwaitReply
  | istateReceive
  | istateProcess
  | rstateWaitCommand
  | rstateReceive
  | rstateProcess
  | rstateReply
  -- the CRC engine
  | crc16 (bytes : List Byte)
  -- EncodeStep, arm by arm, and its helpers
  | encodeDone (st : Station)
  | encodeBackpressure (st : Station)
  | encodeStartFlag (st : Station)
  | encodeEndFlag (st : Station)
  | encodeEscape2 (st : Station)
  | encodeAddress (st : Station)
  | encodeControl (st : Station)
  | encodePayload (st : Station)
  | encodeFcsHigh (st : Station)
  | encodeFcsLow (st : Station)
  | advance (st : Station)
  | txInit (st : Station) (crc : Word)
  -- DecodeStep, arm by arm, and its helpers
  | decodeStalled (st : Station)
  | decodeEmpty (st : Station)
  | decodeUnescape (st : Station)
  | decodeEscape (st : Station)
  | decodeFlagOpen (st : Station)
  | decodeFlagClose (st : Station)
  | decodeData (st : Station)
  | route (st : Station) (d : Byte)
  | validateFrame (st : Station)
  | rxInit (st : Station)
  | rxOpen (st : Station)
  -- InitiatorStep, arm by arm
  | initiatorPrepare
  | initiatorTransmit
  | initiatorAwaitStart
  | initiatorAwaitTimeout
  | initiatorReceive
  | initiatorProcess
  -- ResponderStep, arm by arm
  | responderWaitCommand
  | responderReceive
  | responderProcess
  | responderReplyPoll
  | responderReplyPreempt
  | responderReplySend
  -- the external collaborators
  | qIsFull (q : Queue)
  | qIsEmpty (q : Queue)
  | qWriteByte (q : Queue) (b : Byte)
  | qReadByte (q : Queue)
  | qReset (q : Queue)
  | timerNow
  | timerSetDeadline (durationMs : Nat)
  | timerIsExpired (deadline : Deadline)
  | cmdProcess (command : Byte) (input : List Byte)
  | cmdProcessComplement (input : List Byte)
  | cmdProcessReverse (input : List Byte)
  | cmdProcessUnknown (command : Byte) (input : List Byte)
  -- reset, and the lines of a stimulus script
  | reset
  | scriptReset
  | scriptCfg (cmd : Byte) (payload : List Byte)
  | scriptParam (name : ParamName) (value : Nat)
  | scriptClock (t : Nat)
  | scriptTick (d : Nat)
  | scriptStepI
  | scriptStepR
  | scriptLoop (count lines : Nat)
  | scriptPush (q : Queue) (bytes : List Byte)
  | scriptPop (q : Queue)
  | scriptExpect (p : Pred)
  deriving DecidableEq, Repr

/-- The "format" column of spec/opcode_table.json: the place a word stands in, which is what gives its bits a meaning
(R15, R100, R106). The table puts REQUEST and REPLY under "frame"; they have a place of their own here, since their
content comes from state and not from the word (log 3). -/
inductive Format where
  | wireByte
  | afterEscape
  | wirePair
  | frame
  | request
  | reply
  | field
  | addressByte
  | controlByte
  | routePosition
  | enumStage
  | enumIState
  | enumRState
  | operation
  | encodeOp
  | helper
  | decodeOp
  | initiatorOp
  | responderOp
  | queueOp
  | timerOp
  | commandOp
  | reset
  | script
  deriving DecidableEq, Repr

/-- A word a step fetches: the place it stands in, the station it is for, and its bytes. -/
structure FetchWord where
  fmt : Format
  st : Station
  bytes : List Byte
  deriving DecidableEq, Repr

/-- Why a word is no instruction. -/
inductive DecodeError where
  /-- The word has more or fewer bytes than its place takes. -/
  | wrongLength
  /-- The first byte of a wire pair is not ESCAPE (R93). -/
  | notAnEscapePair
  /-- The bytes are no frame: no flag at an end, a flag inside, or an escape with nothing after it (R90, R91). -/
  | notAFrame
  /-- The two check bytes of the frame are not those of its content (R99). -/
  | badFcs
  /-- The number names no value of the enumeration (R105). -/
  | unusedValue
  /-- The number names no operation of its place. -/
  | noSuchOperation
  /-- The operands are cut short or name nothing. -/
  | badOperand
  deriving DecidableEq, Repr

end Sys2Proof
end

