-- ==== Sys2Proof/WellFormed.lean ====
section
/-! DEFINITION. When an instruction is well formed: the values the opcode table excludes from a row's fields, and the parameter
values R8 and U13 exclude. No number is too large (R118). -/

namespace Sys2Proof

/-- A parameter value: `N >= 1` and `C >= 1` (R8, D25, U13). -/
def ParamName.allows : ParamName → Nat → Bool
  | .n, v => decide (1 ≤ v)
  | .c, v => decide (1 ≤ v)
  | .replyTimeoutMs, _ => true
  | .clockW, _ => true

/-- Well-formedness of an instruction. Rows without a check take every value of their operands. -/
def Instr.wellFormed : Instr → Bool
  -- DATA: not FLAG and not ESCAPE (R95)
  | .data _ d => d != Config.flag && d != Config.escape
  -- ESC_OTHER: not one of the two pairs the transmitter makes (R102)
  | .escOther _ x => x != Config.escapedFlag && x != Config.escapedEscape
  -- FRAME: a payload of at least one byte (R90, D25)
  | .frame _ _ _ payload => !payload.isEmpty
  -- ADDR_OTHER: an unassigned address (R96)
  | .addrOther _ a => a != Config.initiatorAddr && a != Config.responderAddr
  -- CMD_RESERVED, CMDPROCESS.UNKNOWN: not one of the two known codes (R97, R103)
  | .cmdReserved _ c => c != Config.cmdComplement && c != Config.cmdReverse
  | .cmdProcessUnknown c _ => c != Config.cmdComplement && c != Config.cmdReverse
  | .scriptParam name v => name.allows v
  | _ => true

end Sys2Proof
end

