-- ==== Sys2Proof/Decode.lean ====
section
/-! DEFINITION. Decoding a fetch word into an instruction, and encoding an instruction as a fetch word.

What the bits of a byte mean depends on where the byte stands (R15, R100, R106): a fetch word names its place. The wire
bytes, pairs, frames, address bytes, control bytes and enumeration numbers are the spec's own encodings (R90 to R105). The
spec gives operations and script lines no bits (R106); they are numbered here in the table's order within their place,
and their operands follow as bytes. DESIGN CHOICE, safe (log 3). -/

namespace Sys2Proof

/-! ## Operands as bytes -/

def Station.code : Station → Byte
  | .initiator => 0#8
  | .responder => 1#8

def Queue.code : Queue → Byte
  | .qa => 0#8
  | .qb => 1#8

def ParamName.code : ParamName → Byte
  | .n => 0#8
  | .c => 1#8
  | .replyTimeoutMs => 2#8
  | .clockW => 3#8

def decodeStation (b : Byte) : Option Station :=
  match b.toNat with
  | 0 => some .initiator
  | 1 => some .responder
  | _ => none

def decodeQueue (b : Byte) : Option Queue :=
  match b.toNat with
  | 0 => some .qa
  | 1 => some .qb
  | _ => none

def decodeParamName (b : Byte) : Option ParamName :=
  match b.toNat with
  | 0 => some .n
  | 1 => some .c
  | 2 => some .replyTimeoutMs
  | 3 => some .clockW
  | _ => none

def decodeBool (b : Byte) : Option Bool :=
  match b.toNat with
  | 0 => some false
  | 1 => some true
  | _ => none

def encodeBool (b : Bool) : Byte := if b then 1#8 else 0#8

/-- A number in groups of seven bits, lowest group first, each in a byte whose top bit says that another group follows. The
first argument bounds the groups after the first one. -/
def natGroups : Nat → Nat → List Byte
  | 0, v => [BitVec.ofNat 8 v]
  | k + 1, v => if v < 128 then [BitVec.ofNat 8 v] else BitVec.ofNat 8 (128 + v % 128) :: natGroups k (v / 128)

/-- A number operand, of any size (log 3). -/
def encodeNat (v : Nat) : List Byte := natGroups v.log2 v

/-- The number operand at the head of the bytes, and what follows it. -/
def decodeNat : List Byte → Option (Nat × List Byte)
  | [] => none
  | b :: rest =>
    if b.toNat < 128 then some (b.toNat, rest)
    else (decodeNat rest).map fun (high, after) => (b.toNat - 128 + 128 * high, after)

/-- The register names in their numbering, that of the order in which `RegName` lists them. -/
def RegName.all : List RegName :=
  [.iState, .rState, .packetAddress, .packetControl, .packetPayload, .txStage, .txCursor, .txFcsFirst, .txFcsSecond,
    .txEscPending, .txCurByte, .rxStarted, .rxAssembled, .rxValid, .rxAddress, .rxControl] ++
  [.rxPayload, .rxPos, .rxUnescPending, .rxFcsFirst, .rxFcsSecond, .resultControl, .resultPayload, .deadlineArmed,
    .deadlineStart, .deadlineDuration, .outQueueLength, .outQueueByte, .clock, .cfgCommand, .cfgPayload, .readyCount]

def RegName.code (r : RegName) : Byte := BitVec.ofNat 8 (RegName.all.idxOf r)

def decodeRegName (b : Byte) : Option RegName := RegName.all[b.toNat]?

def encodeReg (r : Reg) : List Byte := r.name.code :: r.st.code :: encodeNat r.index

def decodeReg (bs : List Byte) : Option (Reg × List Byte) :=
  match bs with
  | n :: st :: rest =>
    match decodeRegName n, decodeStation st, decodeNat rest with
    | some name, some station, some (index, rest') => some (⟨name, station, index⟩, rest')
    | _, _, _ => none
  | _ => none

/-- A predicate in prefix order: its number, then its parts. -/
def encodePred : Pred → List Byte
  | .always => [0#8]
  | .eq r v => 1#8 :: (encodeReg r ++ encodeNat v)
  | .lt r v => 2#8 :: (encodeReg r ++ encodeNat v)
  | .neg p => 3#8 :: encodePred p
  | .conj p q => 4#8 :: (encodePred p ++ encodePred q)
  | .disj p q => 5#8 :: (encodePred p ++ encodePred q)

/-- Reads a predicate; the number bounds the depth of its nesting. -/
def decodePredWithin : Nat → List Byte → Option (Pred × List Byte)
  | 0, _ => none
  | _ + 1, [] => none
  | fuel + 1, k :: bs =>
    match k.toNat with
    | 0 => some (.always, bs)
    | 1 =>
      (decodeReg bs).bind fun (r, bs') => (decodeNat bs').bind fun (v, bs'') => some (.eq r v, bs'')
    | 2 =>
      (decodeReg bs).bind fun (r, bs') => (decodeNat bs').bind fun (v, bs'') => some (.lt r v, bs'')
    | 3 => (decodePredWithin fuel bs).bind fun (p, bs') => some (.neg p, bs')
    | 4 =>
      (decodePredWithin fuel bs).bind fun (p, bs') =>
        (decodePredWithin fuel bs').bind fun (q, bs'') => some (.conj p q, bs'')
    | 5 =>
      (decodePredWithin fuel bs).bind fun (p, bs') =>
        (decodePredWithin fuel bs').bind fun (q, bs'') => some (.disj p q, bs'')
    | _ => none

/-- A predicate that takes all of the bytes. -/
def decodePred (bs : List Byte) : Option Pred :=
  match decodePredWithin bs.length bs with
  | some (p, []) => some p
  | _ => none

/-! ## Decoding, place by place -/

/-- A wire byte with no unescape pending (R100, lines 2 to 4). -/
def decodeWireByte (st : Station) : List Byte → Except DecodeError Instr
  | [b] =>
    if b = Config.escape then .ok (.escape st)
    else if b = Config.flag then .ok (.flag st)
    else .ok (.data st b)
  | _ => .error .wrongLength

/-- A wire byte after an ESCAPE: any value (R100, line 1). -/
def decodeAfterEscape (st : Station) : List Byte → Except DecodeError Instr
  | [x] => .ok (.escaped st x)
  | _ => .error .wrongLength

/-- A wire pair: ESCAPE and the byte it announces (R93, R102). -/
def decodeWirePair (st : Station) : List Byte → Except DecodeError Instr
  | [e, x] =>
    if e = Config.escape then
      if x = Config.escapedFlag then .ok (.escFlag st)
      else if x = Config.escapedEscape then .ok (.escEscape st)
      else .ok (.escOther st x)
    else .error .notAnEscapePair
  | _ => .error .wrongLength

/-- The address, control, payload and FCS of the data bytes of a frame, the FCS checked (R90, R99). -/
def decodeFrameData (st : Station) : List Byte → Except DecodeError Instr
  | address :: control :: tail =>
    let payload := tail.take (tail.length - 2)
    if tail.length < 3 then .error .wrongLength
    else if tail.drop (tail.length - 2) =
        [Machine.fcsFirst (Machine.packetCrc address control payload),
          Machine.fcsSecond (Machine.packetCrc address control payload)] then
      .ok (.frame st address control payload)
    else .error .badFcs
  | _ => .error .wrongLength

/-- A whole frame as it stands on the wire (R90). -/
def decodeFrame (st : Station) : List Byte → Except DecodeError Instr
  | first :: rest =>
    if first = Config.flag then
      match Machine.unstuffToFlag rest with
      | some body => decodeFrameData st body
      | none => .error .notAFrame
    else .error .notAFrame
  | [] => .error .notAFrame

def decodeRequest : List Byte → Except DecodeError Instr
  | [] => .ok .request
  | _ => .error .wrongLength

def decodeReply : List Byte → Except DecodeError Instr
  | [] => .ok .reply
  | _ => .error .wrongLength

def decodeField : List Byte → Except DecodeError Instr
  | address :: control :: payload => .ok (.fcs address control payload)
  | _ => .error .wrongLength

/-- An address byte (R96). -/
def decodeAddressByte (st : Station) : List Byte → Except DecodeError Instr
  | [a] =>
    if a = Config.initiatorAddr then .ok (.addrInitiator st)
    else if a = Config.responderAddr then .ok (.addrResponder st)
    else .ok (.addrOther st a)
  | _ => .error .wrongLength

/-- A control byte: an exact comparison of all eight bits (R97, R104). -/
def decodeControlByte (st : Station) : List Byte → Except DecodeError Instr
  | [c] =>
    if c = Config.cmdComplement then .ok (.cmdComplement st)
    else if c = Config.cmdReverse then .ok (.cmdReverse st)
    else .ok (.cmdReserved st c)
  | _ => .error .wrongLength

def decodeRoutePosition (st : Station) : List Byte → Except DecodeError Instr
  | [k, d] =>
    match k.toNat with
    | 0 => .ok (.posAddress st d)
    | 1 => .ok (.posControl st d)
    | 2 => .ok (.posPayload st d)
    | 3 => .ok (.posFcsFirst st d)
    | 4 => .ok (.posFcsSecond st d)
    | 5 => .ok (.posOverflow st d)
    | _ => .error .noSuchOperation
  | _ => .error .wrongLength

/-- A number of `tx.stage`, three bits (R105). -/
def decodeStage (st : Station) : List Byte → Except DecodeError Instr
  | [v] =>
    match v.toNat with
    | 0 => .ok (.stageStartFlag st)
    | 1 => .ok (.stageAddress st)
    | 2 => .ok (.stageControl st)
    | 3 => .ok (.stagePayload st)
    | 4 => .ok (.stageFcsHigh st)
    | 5 => .ok (.stageFcsLow st)
    | 6 => .ok (.stageEndFlag st)
    | 7 => .ok (.stageDone st)
    | _ => .error .unusedValue
  | _ => .error .wrongLength

/-- A number of `I.state`, three bits; 5 to 7 are unused (R105). -/
def decodeIState : List Byte → Except DecodeError Instr
  | [v] =>
    match v.toNat with
    | 0 => .ok .istatePrepare
    | 1 => .ok .istateTransmit
    | 2 => .ok .istateAwaitReply
    | 3 => .ok .istateReceive
    | 4 => .ok .istateProcess
    | _ => .error .unusedValue
  | _ => .error .wrongLength

/-- A number of `R.state`, two bits (R105). -/
def decodeRState : List Byte → Except DecodeError Instr
  | [v] =>
    match v.toNat with
    | 0 => .ok .rstateWaitCommand
    | 1 => .ok .rstateReceive
    | 2 => .ok .rstateProcess
    | 3 => .ok .rstateReply
    | _ => .error .unusedValue
  | _ => .error .wrongLength

def decodeEncodeOp (st : Station) : List Byte → Except DecodeError Instr
  | [k] =>
    match k.toNat with
    | 0 => .ok (.encodeDone st)
    | 1 => .ok (.encodeBackpressure st)
    | 2 => .ok (.encodeStartFlag st)
    | 3 => .ok (.encodeEndFlag st)
    | 4 => .ok (.encodeEscape2 st)
    | 5 => .ok (.encodeAddress st)
    | 6 => .ok (.encodeControl st)
    | 7 => .ok (.encodePayload st)
    | 8 => .ok (.encodeFcsHigh st)
    | 9 => .ok (.encodeFcsLow st)
    | _ => .error .noSuchOperation
  | _ => .error .wrongLength

def decodeHelper (st : Station) : List Byte → Except DecodeError Instr
  | k :: operands =>
    match k.toNat, operands with
    | 0, [] => .ok (.advance st)
    | 1, [lo, hi] => .ok (.txInit st (hi ++ lo))
    | 2, [d] => .ok (.route st d)
    | 3, [] => .ok (.validateFrame st)
    | 4, [] => .ok (.rxInit st)
    | 5, [] => .ok (.rxOpen st)
    | _, _ => .error .noSuchOperation
  | [] => .error .wrongLength

def decodeDecodeOp (st : Station) : List Byte → Except DecodeError Instr
  | [k] =>
    match k.toNat with
    | 0 => .ok (.decodeStalled st)
    | 1 => .ok (.decodeEmpty st)
    | 2 => .ok (.decodeUnescape st)
    | 3 => .ok (.decodeEscape st)
    | 4 => .ok (.decodeFlagOpen st)
    | 5 => .ok (.decodeFlagClose st)
    | 6 => .ok (.decodeData st)
    | _ => .error .noSuchOperation
  | _ => .error .wrongLength

def decodeInitiatorOp : List Byte → Except DecodeError Instr
  | [k] =>
    match k.toNat with
    | 0 => .ok .initiatorPrepare
    | 1 => .ok .initiatorTransmit
    | 2 => .ok .initiatorAwaitStart
    | 3 => .ok .initiatorAwaitTimeout
    | 4 => .ok .initiatorReceive
    | 5 => .ok .initiatorProcess
    | _ => .error .noSuchOperation
  | _ => .error .wrongLength

def decodeResponderOp : List Byte → Except DecodeError Instr
  | [k] =>
    match k.toNat with
    | 0 => .ok .responderWaitCommand
    | 1 => .ok .responderReceive
    | 2 => .ok .responderProcess
    | 3 => .ok .responderReplyPoll
    | 4 => .ok .responderReplyPreempt
    | 5 => .ok .responderReplySend
    | _ => .error .noSuchOperation
  | _ => .error .wrongLength

def decodeQueueOp : List Byte → Except DecodeError Instr
  | k :: q :: operands =>
    match k.toNat, decodeQueue q, operands with
    | 0, some q, [] => .ok (.qIsFull q)
    | 1, some q, [] => .ok (.qIsEmpty q)
    | 2, some q, [b] => .ok (.qWriteByte q b)
    | 3, some q, [] => .ok (.qReadByte q)
    | 4, some q, [] => .ok (.qReset q)
    | _, _, _ => .error .badOperand
  | _ => .error .wrongLength

/-- The deadline operand of TIMER.ISEXPIRED. -/
def decodeDeadline (bs : List Byte) : Option Deadline :=
  match bs with
  | armed :: rest =>
    (decodeBool armed).bind fun armed =>
      (decodeNat rest).bind fun (tStart, rest) =>
        (decodeNat rest).bind fun (duration, rest) =>
          if rest.isEmpty then some ⟨armed, tStart, duration⟩ else none
  | [] => none

/-- The one number that takes all of the bytes. -/
def decodeOnlyNat (bs : List Byte) : Option Nat :=
  match decodeNat bs with
  | some (v, []) => some v
  | _ => none

/-- An operand that must be there. -/
def decoded (i : Option Instr) : Except DecodeError Instr :=
  match i with
  | some i => .ok i
  | none => .error .badOperand

def decodeTimerOp : List Byte → Except DecodeError Instr
  | k :: operands =>
    match k.toNat with
    | 0 => if operands.isEmpty then .ok .timerNow else .error .wrongLength
    | 1 => decoded ((decodeOnlyNat operands).map .timerSetDeadline)
    | 2 => decoded ((decodeDeadline operands).map .timerIsExpired)
    | _ => .error .noSuchOperation
  | [] => .error .wrongLength

def decodeCommandOp : List Byte → Except DecodeError Instr
  | k :: operands =>
    match k.toNat, operands with
    | 0, c :: p => .ok (.cmdProcess c p)
    | 1, p => .ok (.cmdProcessComplement p)
    | 2, p => .ok (.cmdProcessReverse p)
    | 3, c :: p => .ok (.cmdProcessUnknown c p)
    | _, _ => .error .noSuchOperation
  | [] => .error .wrongLength

def decodeReset : List Byte → Except DecodeError Instr
  | [] => .ok .reset
  | _ => .error .wrongLength

/-- A script line that names a queue: PUSH, with the bytes to write, and POP. -/
def decodeQueueLine (mk : Queue → Option Instr) (q : Byte) : Except DecodeError Instr :=
  decoded ((decodeQueue q).bind mk)

def decodeScript : List Byte → Except DecodeError Instr
  | k :: operands =>
    match k.toNat, operands with
    | 0, [] => .ok .scriptReset
    | 1, cmd :: payload => .ok (.scriptCfg cmd payload)
    | 2, name :: value =>
      decoded ((decodeParamName name).bind fun name => (decodeOnlyNat value).map (.scriptParam name))
    | 3, t => decoded ((decodeOnlyNat t).map .scriptClock)
    | 4, d => decoded ((decodeOnlyNat d).map .scriptTick)
    | 5, [] => .ok .scriptStepI
    | 6, [] => .ok .scriptStepR
    | 7, bs =>
      decoded ((decodeNat bs).bind fun (count, rest) => (decodeOnlyNat rest).map (.scriptLoop count))
    | 8, q :: bytes => decodeQueueLine (fun q => some (.scriptPush q bytes)) q
    | 9, [q] => decodeQueueLine (fun q => some (.scriptPop q)) q
    | 10, p => decoded ((decodePred p).map .scriptExpect)
    | _, _ => .error .noSuchOperation
  | [] => .error .wrongLength

/-- The instruction a word stands for: total on any bytes, rejecting by name. -/
def decode (w : FetchWord) : Except DecodeError Instr :=
  match w.fmt with
  | .wireByte => decodeWireByte w.st w.bytes
  | .afterEscape => decodeAfterEscape w.st w.bytes
  | .wirePair => decodeWirePair w.st w.bytes
  | .frame => decodeFrame w.st w.bytes
  | .request => decodeRequest w.bytes
  | .reply => decodeReply w.bytes
  | .field => decodeField w.bytes
  | .addressByte => decodeAddressByte w.st w.bytes
  | .controlByte => decodeControlByte w.st w.bytes
  | .routePosition => decodeRoutePosition w.st w.bytes
  | .enumStage => decodeStage w.st w.bytes
  | .enumIState => decodeIState w.bytes
  | .enumRState => decodeRState w.bytes
  | .operation => .ok (.crc16 w.bytes)
  | .encodeOp => decodeEncodeOp w.st w.bytes
  | .helper => decodeHelper w.st w.bytes
  | .decodeOp => decodeDecodeOp w.st w.bytes
  | .initiatorOp => decodeInitiatorOp w.bytes
  | .responderOp => decodeResponderOp w.bytes
  | .queueOp => decodeQueueOp w.bytes
  | .timerOp => decodeTimerOp w.bytes
  | .commandOp => decodeCommandOp w.bytes
  | .reset => decodeReset w.bytes
  | .script => decodeScript w.bytes

/-- The places whose bytes are bytes on the wire (R90 to R95): there every byte has an effect at a receiver, whether or not the
bytes make up a row of the table (R100, R102). -/
def Format.onWire (fmt : Format) : Bool := [Format.wireByte, .afterEscape, .wirePair, .frame].contains fmt

/-! ## Encoding -/

/-- A word that is for no station in particular. -/
def wordOf (fmt : Format) (bytes : List Byte) : FetchWord := ⟨fmt, .initiator, bytes⟩

/-- The fetch word of an instruction. -/
def encode : Instr → FetchWord
  | .flag st => ⟨.wireByte, st, [Config.flag]⟩
  | .escape st => ⟨.wireByte, st, [Config.escape]⟩
  | .data st d => ⟨.wireByte, st, [d]⟩
  | .escaped st x => ⟨.afterEscape, st, [x]⟩
  | .escFlag st => ⟨.wirePair, st, [Config.escape, Config.escapedFlag]⟩
  | .escEscape st => ⟨.wirePair, st, [Config.escape, Config.escapedEscape]⟩
  | .escOther st x => ⟨.wirePair, st, [Config.escape, x]⟩
  | .frame st a c p => ⟨.frame, st, Machine.frameBytes a c p⟩
  | .request => wordOf .request []
  | .reply => wordOf .reply []
  | .fcs a c p => wordOf .field (a :: c :: p)
  | .addrInitiator st => ⟨.addressByte, st, [Config.initiatorAddr]⟩
  | .addrResponder st => ⟨.addressByte, st, [Config.responderAddr]⟩
  | .addrOther st a => ⟨.addressByte, st, [a]⟩
  | .cmdComplement st => ⟨.controlByte, st, [Config.cmdComplement]⟩
  | .cmdReverse st => ⟨.controlByte, st, [Config.cmdReverse]⟩
  | .cmdReserved st c => ⟨.controlByte, st, [c]⟩
  | .posAddress st d => ⟨.routePosition, st, [0#8, d]⟩
  | .posControl st d => ⟨.routePosition, st, [1#8, d]⟩
  | .posPayload st d => ⟨.routePosition, st, [2#8, d]⟩
  | .posFcsFirst st d => ⟨.routePosition, st, [3#8, d]⟩
  | .posFcsSecond st d => ⟨.routePosition, st, [4#8, d]⟩
  | .posOverflow st d => ⟨.routePosition, st, [5#8, d]⟩
  | .stageStartFlag st => ⟨.enumStage, st, [0#8]⟩
  | .stageAddress st => ⟨.enumStage, st, [1#8]⟩
  | .stageControl st => ⟨.enumStage, st, [2#8]⟩
  | .stagePayload st => ⟨.enumStage, st, [3#8]⟩
  | .stageFcsHigh st => ⟨.enumStage, st, [4#8]⟩
  | .stageFcsLow st => ⟨.enumStage, st, [5#8]⟩
  | .stageEndFlag st => ⟨.enumStage, st, [6#8]⟩
  | .stageDone st => ⟨.enumStage, st, [7#8]⟩
  | .istatePrepare => wordOf .enumIState [0#8]
  | .istateTransmit => wordOf .enumIState [1#8]
  | .istateAwaitReply => wordOf .enumIState [2#8]
  | .istateReceive => wordOf .enumIState [3#8]
  | .istateProcess => wordOf .enumIState [4#8]
  | .rstateWaitCommand => wordOf .enumRState [0#8]
  | .rstateReceive => wordOf .enumRState [1#8]
  | .rstateProcess => wordOf .enumRState [2#8]
  | .rstateReply => wordOf .enumRState [3#8]
  | .crc16 bytes => wordOf .operation bytes
  | .encodeDone st => ⟨.encodeOp, st, [0#8]⟩
  | .encodeBackpressure st => ⟨.encodeOp, st, [1#8]⟩
  | .encodeStartFlag st => ⟨.encodeOp, st, [2#8]⟩
  | .encodeEndFlag st => ⟨.encodeOp, st, [3#8]⟩
  | .encodeEscape2 st => ⟨.encodeOp, st, [4#8]⟩
  | .encodeAddress st => ⟨.encodeOp, st, [5#8]⟩
  | .encodeControl st => ⟨.encodeOp, st, [6#8]⟩
  | .encodePayload st => ⟨.encodeOp, st, [7#8]⟩
  | .encodeFcsHigh st => ⟨.encodeOp, st, [8#8]⟩
  | .encodeFcsLow st => ⟨.encodeOp, st, [9#8]⟩
  | .advance st => ⟨.helper, st, [0#8]⟩
  | .txInit st crc => ⟨.helper, st, [1#8, Machine.fcsFirst crc, Machine.fcsSecond crc]⟩
  | .decodeStalled st => ⟨.decodeOp, st, [0#8]⟩
  | .decodeEmpty st => ⟨.decodeOp, st, [1#8]⟩
  | .decodeUnescape st => ⟨.decodeOp, st, [2#8]⟩
  | .decodeEscape st => ⟨.decodeOp, st, [3#8]⟩
  | .decodeFlagOpen st => ⟨.decodeOp, st, [4#8]⟩
  | .decodeFlagClose st => ⟨.decodeOp, st, [5#8]⟩
  | .decodeData st => ⟨.decodeOp, st, [6#8]⟩
  | .route st d => ⟨.helper, st, [2#8, d]⟩
  | .validateFrame st => ⟨.helper, st, [3#8]⟩
  | .rxInit st => ⟨.helper, st, [4#8]⟩
  | .rxOpen st => ⟨.helper, st, [5#8]⟩
  | .initiatorPrepare => wordOf .initiatorOp [0#8]
  | .initiatorTransmit => wordOf .initiatorOp [1#8]
  | .initiatorAwaitStart => wordOf .initiatorOp [2#8]
  | .initiatorAwaitTimeout => wordOf .initiatorOp [3#8]
  | .initiatorReceive => wordOf .initiatorOp [4#8]
  | .initiatorProcess => wordOf .initiatorOp [5#8]
  | .responderWaitCommand => wordOf .responderOp [0#8]
  | .responderReceive => wordOf .responderOp [1#8]
  | .responderProcess => wordOf .responderOp [2#8]
  | .responderReplyPoll => wordOf .responderOp [3#8]
  | .responderReplyPreempt => wordOf .responderOp [4#8]
  | .responderReplySend => wordOf .responderOp [5#8]
  | .qIsFull q => wordOf .queueOp [0#8, q.code]
  | .qIsEmpty q => wordOf .queueOp [1#8, q.code]
  | .qWriteByte q b => wordOf .queueOp [2#8, q.code, b]
  | .qReadByte q => wordOf .queueOp [3#8, q.code]
  | .qReset q => wordOf .queueOp [4#8, q.code]
  | .timerNow => wordOf .timerOp [0#8]
  | .timerSetDeadline d => wordOf .timerOp (1#8 :: encodeNat d)
  | .timerIsExpired dl =>
    wordOf .timerOp (2#8 :: encodeBool dl.armed :: (encodeNat dl.tStart ++ encodeNat dl.duration))
  | .cmdProcess c p => wordOf .commandOp (0#8 :: c :: p)
  | .cmdProcessComplement p => wordOf .commandOp (1#8 :: p)
  | .cmdProcessReverse p => wordOf .commandOp (2#8 :: p)
  | .cmdProcessUnknown c p => wordOf .commandOp (3#8 :: c :: p)
  | .reset => wordOf .reset []
  | .scriptReset => wordOf .script [0#8]
  | .scriptCfg cmd payload => wordOf .script (1#8 :: cmd :: payload)
  | .scriptParam name v => wordOf .script (2#8 :: name.code :: encodeNat v)
  | .scriptClock t => wordOf .script (3#8 :: encodeNat t)
  | .scriptTick d => wordOf .script (4#8 :: encodeNat d)
  | .scriptStepI => wordOf .script [5#8]
  | .scriptStepR => wordOf .script [6#8]
  | .scriptLoop count lines => wordOf .script (7#8 :: (encodeNat count ++ encodeNat lines))
  | .scriptPush q bytes => wordOf .script (8#8 :: q.code :: bytes)
  | .scriptPop q => wordOf .script [9#8, q.code]
  | .scriptExpect p => wordOf .script (10#8 :: encodePred p)

/-! ## The opcode table's words -/

/-- Where a bare word stands: at the first row of spec/opcode_table.json, in the table's order, whose fixed bits it has; a
byte no row fixes is an ordinary data byte. Several rows share a value; the first of them is taken (log 2). -/
def tableFormat (nbits w : Nat) : Format :=
  let b := BitVec.ofNat 8 w
  if 8 < nbits then .wirePair
  else if b = Config.flag ∨ b = Config.escape then .wireByte
  else if b = Config.initiatorAddr ∨ b = Config.responderAddr then .addressByte
  else if b.toNat < 8 then .enumStage
  else .wireByte

/-- The bytes of a bare word. The table writes a pair as one number whose high byte is the first on the wire (log 2). -/
def tableBytes (nbits w : Nat) : List Byte :=
  if nbits ≤ 8 then [BitVec.ofNat 8 w] else [BitVec.ofNat 8 (w / 256), BitVec.ofNat 8 w]

/-- The fetch word of a bare word of the opcode table. -/
def tableWord (nbits w : Nat) : FetchWord := wordOf (tableFormat nbits w) (tableBytes nbits w)

/-- The instruction the decoder reads from the bare bits of a row of the opcode table: `none` where it refuses. -/
def decodeTableWord (nbits w : Nat) : Option Instr :=
  match decode (tableWord nbits w) with
  | .ok i => some i
  | .error _ => none

end Sys2Proof
end

