-- ==== Sys2Proof/Machine/Contexts.lean ====
section
/-! DEFINITION. The records a station is made of (10_state.md): packet, transmit context, receive context, result buffer, and
the values `TxInit`, `TxDefault`, `RxInit`, `RxOpen`. Payload arrays are lists of `N` bytes; `N` is a parameter (log 17). -/

namespace Sys2Proof.Machine

/-- A packet (R23). -/
structure Packet where
  address : Byte
  control : Byte
  payload : List Byte
  deriving DecidableEq, Repr

/-- The transmit context (R24 to R28). -/
structure TxContext where
  stage : Stage
  cursor : Nat
  fcsFirst : Byte
  fcsSecond : Byte
  escPending : Bool
  curByte : Byte
  deriving DecidableEq, Repr

/-- The receive context (R31 to R37). -/
structure RxContext where
  started : Bool
  assembled : Bool
  valid : Bool
  packet : Packet
  pos : Nat
  unescPending : Bool
  fcsFirst : Byte
  fcsSecond : Byte
  deriving DecidableEq, Repr

/-- A result buffer (R40). -/
structure ResultBuffer where
  control : Byte
  payload : List Byte
  deriving DecidableEq, Repr

/-- An array of `n` zero bytes. -/
def zeros (n : Nat) : List Byte := List.replicate n 0#8

/-- A packet of zeros (R50, R290). -/
def zeroPacket (n : Nat) : Packet := { address := 0#8, control := 0#8, payload := zeros n }

/-- A result buffer of zeros (R50, R290). -/
def zeroResult (n : Nat) : ResultBuffer := { control := 0#8, payload := zeros n }

/-- `TxInit(crc)` (R29). -/
def txInit (crc : Word) : TxContext :=
  { stage := .startFlag, cursor := 0, fcsFirst := fcsFirst crc, fcsSecond := fcsSecond crc, escPending := false,
    curByte := 0x00#8 }

/-- `TxDefault`, that is `TxInit(0x0000)` (R29). -/
def txDefault : TxContext := txInit 0x0000#16

/-- `RxInit`, for a payload of `n` bytes (R38). -/
def rxInit (n : Nat) : RxContext :=
  { started := false, assembled := false, valid := false, packet := zeroPacket n, pos := 0, unescPending := false,
    fcsFirst := 0x00#8, fcsSecond := 0x00#8 }

/-- `RxOpen`: `RxInit` with `started = 1` (R39). -/
def rxOpen (n : Nat) : RxContext := { rxInit n with started := true }

end Sys2Proof.Machine
end

