-- ==== Sys2Proof/Machine/State.lean ====
section
/-! DEFINITION. The state of the whole system: the two station records (R20), the two queues and the clock around them
(R231, R239), the configuration inputs (R45), the parameters of the build (R8), and the model's own fields: the script not
yet run, the schedule's turn, the counter of free values, and what the host sees of the last operation. -/

namespace Sys2Proof.Machine

/-- What each station owns apart from its FSM state (R20, R21). -/
structure Link where
  txPacket : Packet
  tx : TxContext
  rx : RxContext
  result : ResultBuffer
  deriving DecidableEq, Repr

/-- The initiator's record `I` (R20, R41, R44). -/
structure Initiator where
  state : IState
  link : Link
  deadline : Deadline
  deriving DecidableEq, Repr

/-- The responder's record `R` (R20, R42). -/
structure Responder where
  state : RState
  link : Link
  deriving DecidableEq, Repr

/-- The configuration inputs as the host drives them (R45). `payload` is the bytes driven, which may come before the line that
fixes `N` (R295); `State.cfgPayload` is the `N`-byte input `cfg_payload` they make. -/
structure CfgInputs where
  command : Byte
  payload : List Byte
  deriving DecidableEq, Repr

/-- The parameters (R8). The two queues have a capacity each, since nothing depends on the two being equal (R237). `N` is one for
both stations: stations with different `N`, which U13 lets a model refuse, are left out. DESIGN CHOICE, safe (log 33). -/
structure Params where
  n : Nat
  capQA : Nat
  capQB : Nat
  replyTimeoutMs : Nat
  clockW : Nat
  deriving DecidableEq, Repr

/-- A value an operation returns to its caller. -/
inductive Ret where
  | nothing
  | bool (b : Bool)
  | byte (b : Byte)
  | word (w : Word)
  | bytes (bs : List Byte)
  | time (t : Nat)
  | deadline (d : Deadline)
  | command (c : Command)
  deriving DecidableEq, Repr

/-- What the host sees of the operations: the value and the outcome label of the last one, and the ResultReady events so
far, oldest first (R13, R196, R252). Model's own: no rule reads it (log 10). -/
structure HostPort where
  ret : Ret
  label : Option Condition
  ready : List ResultBuffer
  deriving DecidableEq, Repr

/-- Why a step stops with a fault. -/
inductive Fault where
  /-- `EncodeStep` in stage Payload with a cursor outside the payload array; raised by ENCODESTEP.PAYLOAD and by the FSM
  arms that call `EncodeStep`. No reachable state has it (R12, R148): safe. -/
  | payloadIndex
  deriving DecidableEq, Repr

/-- Why a step gives an instruction no meaning. -/
inductive Refusal where
  /-- An instruction of the table without a meaning yet; raised by exec's arms only. Safe. -/
  | notModelled (mnemonic : String)
  /-- The environment writes a full queue (U1, R234); raised by Q.WRITEBYTE and SCRIPT.PUSH. Safe. -/
  | queueFull
  /-- The environment reads an empty queue (U2, R235); raised by Q.READBYTE and SCRIPT.POP. Safe. -/
  | queueEmpty
  /-- A parameter value the spec excludes: `N = 0`, `C = 0` (U13), or a capacity below what a queue holds (R61); raised by
  SCRIPT.PARAM. Safe. -/
  | badParameter
  /-- A LOOP with fewer lines after it than it encloses; raised by SCRIPT.LOOP. Safe. -/
  | loopBody
  /-- A fetch word, not of bytes on the wire, that is no instruction: the spec has no operation, script line or enumeration
  number with those bits (R105, R106, R118); raised by `runRejected`. Safe. -/
  | undecodable (e : DecodeError)
  /-- A fetch word that decodes to an ill-formed instruction, which is a PARAM line with `N = 0` or `C = 0` (U13), or
  CMDPROCESS.UNKNOWN with a known code (R247); raised by step. Safe. -/
  | illFormed
  deriving DecidableEq, Repr

/-- The state of the system. -/
structure State where
  ini : Initiator
  res : Responder
  qa : List Byte
  qb : List Byte
  clock : Nat
  cfg : CfgInputs
  par : Params
  prog : List FetchWord
  turn : Station
  free : Nat
  host : HostPort
  deriving DecidableEq, Repr

/-- The reset value of what a station owns, for a payload of `n` bytes (R50, R290). -/
def Link.reset (n : Nat) : Link :=
  { txPacket := zeroPacket n, tx := txDefault, rx := rxInit n, result := zeroResult n }

/-- The reset value of `I` (R50, R290). -/
def Initiator.reset (n : Nat) : Initiator :=
  { state := .prepare, link := Link.reset n, deadline := { armed := false, tStart := 0, duration := 0 } }

/-- The reset value of `R` (R50, R290). -/
def Responder.reset (n : Nat) : Responder := { state := .waitCommand, link := Link.reset n }

/-- The parameters before a PARAM line: the defaults of R8, and the OPEN timeout (log 5). -/
def Params.default : Params :=
  { n := Config.defaultN, capQA := Config.defaultC, capQB := Config.defaultC,
    replyTimeoutMs := Config.replyTimeoutMs, clockW := Config.defaultClockW }

/-- The system right after reset: both records at R290's values (R50, log 9), the queues empty as R292 asks
(log 28). The clock starts at 0 and the configuration inputs at zero: DESIGN CHOICE, unsafe (log 6, log 8). -/
def State.reset : State :=
  { ini := Initiator.reset Config.defaultN
    res := Responder.reset Config.defaultN
    qa := []
    qb := []
    clock := 0
    cfg := { command := 0#8, payload := zeros Config.defaultN }
    par := Params.default
    prog := []
    turn := .initiator
    free := 0
    host := { ret := .nothing, label := none, ready := [] } }

end Sys2Proof.Machine
end

