-- ==== Sys2Proof/Machine/Operands.lean ====
section
/-! DEFINITION. Where operands are found: a station's registers, queues and addresses, the logical byte of a transmit stage, the
command a control byte stands for, and the registers of a dump by name. -/

namespace Sys2Proof.Machine

/-! ## The registers of a station -/

/-- What a station owns (R21). -/
def State.link (s : State) : Station → Link
  | .initiator => s.ini.link
  | .responder => s.res.link

/-- Writes what a station owns; the other station's record is untouched (R21). -/
def State.setLink (s : State) (st : Station) (l : Link) : State :=
  match st with
  | .initiator => { s with ini := { s.ini with link := l } }
  | .responder => { s with res := { s.res with link := l } }

/-- `S.tx`. -/
def State.tx (s : State) (st : Station) : TxContext := (s.link st).tx

/-- `S.rx`. -/
def State.rx (s : State) (st : Station) : RxContext := (s.link st).rx

/-- `S.tx_packet`. -/
def State.txPacket (s : State) (st : Station) : Packet := (s.link st).txPacket

/-- `S.result`. -/
def State.result (s : State) (st : Station) : ResultBuffer := (s.link st).result

/-- `S.tx <- x`. -/
def State.setTx (s : State) (st : Station) (x : TxContext) : State := s.setLink st { s.link st with tx := x }

/-- `S.rx <- x`. -/
def State.setRx (s : State) (st : Station) (x : RxContext) : State := s.setLink st { s.link st with rx := x }

/-- `S.tx_packet <- x`. -/
def State.setTxPacket (s : State) (st : Station) (x : Packet) : State :=
  s.setLink st { s.link st with txPacket := x }

/-- `S.result <- x`. -/
def State.setResult (s : State) (st : Station) (x : ResultBuffer) : State :=
  s.setLink st { s.link st with result := x }

/-- The input `cfg_payload`, `N` bytes (R45): the bytes driven, where `N` were. Of other numbers the first `N` are the input, and a
byte that is not driven is zero as at reset: DESIGN CHOICE, unsafe (log 8, log 34). -/
def State.cfgPayload (s : State) : List Byte := (s.cfg.payload ++ zeros s.par.n).take s.par.n

/-! ## Queues and addresses -/

/-- The content of a queue, oldest byte first (R61, R231). -/
def State.queue (s : State) : Queue → List Byte
  | .qa => s.qa
  | .qb => s.qb

/-- Replaces the content of a queue. -/
def State.setQueue (s : State) (q : Queue) (bs : List Byte) : State :=
  match q with
  | .qa => { s with qa := bs }
  | .qb => { s with qb := bs }

/-- The capacity `C` of a queue (R8, R237). -/
def State.capacity (s : State) : Queue → Nat
  | .qa => s.par.capQA
  | .qb => s.par.capQB

end Sys2Proof.Machine

namespace Sys2Proof

/-- The queue a station writes (R3, R190, R210). -/
def Station.outQueue : Station → Queue
  | .initiator => .qa
  | .responder => .qb

/-- The queue a station reads (R3, R190, R210). -/
def Station.inQueue : Station → Queue
  | .initiator => .qb
  | .responder => .qa

/-- The address of a station, which is the one it expects in the frames it receives (R96, R160, 90_conflicts.md C2). -/
def Station.address : Station → Byte
  | .initiator => Config.initiatorAddr
  | .responder => Config.responderAddr

/-- The peer of a station. -/
def Station.peer : Station → Station
  | .initiator => .responder
  | .responder => .initiator

/-! ## The numbering of the enumerations (R105) -/

def Stage.number : Stage → Nat
  | .startFlag => 0
  | .address => 1
  | .control => 2
  | .payload => 3
  | .fcsHigh => 4
  | .fcsLow => 5
  | .endFlag => 6
  | .done => 7

def IState.number : IState → Nat
  | .prepare => 0
  | .transmit => 1
  | .awaitReply => 2
  | .receive => 3
  | .process => 4

def RState.number : RState → Nat
  | .waitCommand => 0
  | .receive => 1
  | .process => 2
  | .reply => 3

end Sys2Proof

namespace Sys2Proof.Machine

/-! ## Operands of the codecs and of the command processor -/

/-- The logical byte of a stuffable stage (R148). `none` in a stage that has none, and for a cursor outside the payload
array, which no rule produces (R12, log 17). -/
def logicalByte (tx : TxContext) (pkt : Packet) : Option Byte :=
  match tx.stage with
  | .address => some pkt.address
  | .control => some pkt.control
  | .payload => pkt.payload[tx.cursor]?
  | .fcsHigh => some tx.fcsFirst
  | .fcsLow => some tx.fcsSecond
  | .startFlag => none
  | .endFlag => none
  | .done => none

/-- The total mapping of control bytes to command variants (R105, R245). -/
def commandOf (c : Byte) : Command :=
  if c = Config.cmdComplement then .complement
  else if c = Config.cmdReverse then .reverse
  else .unknown c

/-- `c in KNOWN_COMMANDS`: an exact comparison of all eight bits (R8, R104). -/
def knownCommand (c : Byte) : Bool := c == Config.cmdComplement || c == Config.cmdReverse

/-! ## Registers by name (R105, R252) -/

def boolNumber (b : Bool) : Nat := if b then 1 else 0

/-- The number a register holds; `none` for an index outside its array or queue. -/
def readReg (s : State) (r : Reg) : Option Nat :=
  match r.name with
  | .iState => some s.ini.state.number
  | .rState => some s.res.state.number
  | .packetAddress => some (s.txPacket r.st).address.toNat
  | .packetControl => some (s.txPacket r.st).control.toNat
  | .packetPayload => ((s.txPacket r.st).payload[r.index]?).map BitVec.toNat
  | .txStage => some (s.tx r.st).stage.number
  | .txCursor => some (s.tx r.st).cursor
  | .txFcsFirst => some (s.tx r.st).fcsFirst.toNat
  | .txFcsSecond => some (s.tx r.st).fcsSecond.toNat
  | .txEscPending => some (boolNumber (s.tx r.st).escPending)
  | .txCurByte => some (s.tx r.st).curByte.toNat
  | .rxStarted => some (boolNumber (s.rx r.st).started)
  | .rxAssembled => some (boolNumber (s.rx r.st).assembled)
  | .rxValid => some (boolNumber (s.rx r.st).valid)
  | .rxAddress => some (s.rx r.st).packet.address.toNat
  | .rxControl => some (s.rx r.st).packet.control.toNat
  | .rxPayload => ((s.rx r.st).packet.payload[r.index]?).map BitVec.toNat
  | .rxPos => some (s.rx r.st).pos
  | .rxUnescPending => some (boolNumber (s.rx r.st).unescPending)
  | .rxFcsFirst => some (s.rx r.st).fcsFirst.toNat
  | .rxFcsSecond => some (s.rx r.st).fcsSecond.toNat
  | .resultControl => some (s.result r.st).control.toNat
  | .resultPayload => ((s.result r.st).payload[r.index]?).map BitVec.toNat
  | .deadlineArmed => some (boolNumber s.ini.deadline.armed)
  | .deadlineStart => some s.ini.deadline.tStart
  | .deadlineDuration => some s.ini.deadline.duration
  | .outQueueLength => some (s.queue r.st.outQueue).length
  | .outQueueByte => ((s.queue r.st.outQueue)[r.index]?).map BitVec.toNat
  | .clock => some s.clock
  | .cfgCommand => some s.cfg.command.toNat
  | .cfgPayload => (s.cfgPayload[r.index]?).map BitVec.toNat
  | .readyCount => some s.host.ready.length

/-- Whether an EXPECT predicate holds in a state (R118, log 16). -/
def holds (s : State) : Pred → Bool
  | .always => true
  | .eq r v => readReg s r == some v
  | .lt r v => match readReg s r with
    | some x => decide (x < v)
    | none => false
  | .neg p => !holds s p
  | .conj p q => holds s p && holds s q
  | .disj p q => holds s p || holds s q

end Sys2Proof.Machine
end

