-- ==== Sys2Proof/Machine/Flags.lean ====
section
/-! DEFINITION. The one-bit tests the operations make, the label of a failed validation, and what a tested byte is: queue full
and empty (R232, R233), deadline expired (R241), the five requirements on a frame (R172), the class of a wire byte (R100). -/

namespace Sys2Proof.Machine

/-- `QFull(q)`: the queue holds `C` bytes (R232). A queue never holds more (R231); of a state in which one does, it is full
as well, so that it is not written (log 17). -/
def queueFull (s : State) (q : Queue) : Bool := decide (s.capacity q ≤ (s.queue q).length)

/-- `QEmpty(q)`: the queue holds no byte (R233). -/
def queueEmpty (s : State) (q : Queue) : Bool := (s.queue q).isEmpty

/-- `(now - start) mod 2^CLOCK_W`, the unsigned difference of R241. -/
def elapsed (clockW now start : Nat) : Nat := (now + (2 ^ clockW - start % 2 ^ clockW)) % 2 ^ clockW

/-- `IsExpired(deadline)`: the elapsed time is at least the duration (R241). The fields have `CLOCK_W` bits (R44, R240). Of a deadline
with wider ones, which only TIMER.ISEXPIRED can be given, the start is taken modulo `2^CLOCK_W` by the difference and the duration
is compared as it is: DESIGN CHOICE, unsafe (log 35). -/
def isExpired (s : State) (dl : Deadline) : Bool :=
  decide (dl.duration ≤ elapsed s.par.clockW s.clock dl.tStart)

/-- The two received FCS bytes are those of the received content, compared byte by byte (R99, R135, R172). -/
def fcsMatches (rx : RxContext) : Bool :=
  let crc := packetCrc rx.packet.address rx.packet.control rx.packet.payload
  rx.fcsFirst == fcsFirst crc && rx.fcsSecond == fcsSecond crc

/-- The first requirement of R172 a frame fails, in the order of that rule (R173, R266); `none` where all five hold. -/
def validationLabel (n : Nat) (rx : RxContext) (expected : Byte) : Option Condition :=
  if !rx.assembled then some .frameIncomplete
  else if rx.pos ≠ n + 4 then some .frameLengthError
  else if rx.packet.address ≠ expected then some .addressMismatch
  else if !knownCommand rx.packet.control then some .unknownCommand
  else if !fcsMatches rx then some .checksumMismatch
  else none

/-- The classes of a byte a receiver has read (R100), FLAG split by whether a frame is open (R165). -/
inductive ByteClass where
  | unescape
  | escape
  | flagOpen
  | flagClose
  | data
  deriving DecidableEq, Repr

/-- The class of a byte: the first line of R100 that applies. -/
def classify (rx : RxContext) (b : Byte) : ByteClass :=
  if rx.unescPending then .unescape
  else if b = Config.escape then .escape
  else if b = Config.flag then (if rx.started then .flagClose else .flagOpen)
  else .data

end Sys2Proof.Machine
end

