-- ==== Sys2Proof/Machine/Ops.lean ====
section
/-! DEFINITION. The shared operations: what the host is told, the queues, `EncodeStep` (R149), `DecodeStep` (R167) with `Route`
and `ValidateFrame`, the command processor, the timer, the taking of a condition (R270), the reset of the block (R290), and
the activations of the two stations (R199, R219). An instruction's meaning is one line over these. -/

namespace Sys2Proof.Machine

/-- What running an instruction answers. -/
abbrev Out := Host.Outcome State Fault Refusal

/-- Goes on from a next state; a fault or a refusal stays. -/
def andThen (o : Out) (f : State → Out) : Out :=
  match o with
  | .next s => f s
  | .fault r => .fault r
  | .refused r => .refused r

/-- Tells the host the value an operation returned and the label it raised (R13, log 10). -/
def State.report (s : State) (ret : Ret) (label : Option Condition) : State :=
  { s with host := { s.host with ret := ret, label := label } }

/-- An operation that ends with nothing to return and no label. -/
def State.quiet (s : State) : State := s.report .nothing none

/-- A row that names one arm of an operation is a call of the operation, which takes the arm the state selects (R106). The host
is told whether that is the arm the row names; the label is the operation's. DESIGN CHOICE, safe (log 11). -/
def tellArm (named : Bool) (o : Out) : Out := andThen o fun t => .next (t.report (.bool named) t.host.label)

/-! ## Queues -/

/-- `QWrite(q, b)`: appends at the tail (R61, R234). Its callers have tested `QFull` (R69). -/
def State.qWrite (s : State) (q : Queue) (b : Byte) : State := s.setQueue q (s.queue q ++ [b])

/-- `QRead(q)`: removes the oldest byte (R61, R235). Its callers have tested `QEmpty` (R69). -/
def State.qDrop (s : State) (q : Queue) : State := s.setQueue q (s.queue q).tail

/-! ## EncodeStep (R140 to R149) -/

/-- `Advance(tx)` (R147). A stage for which the rule has no line stays as it is (log 24). -/
def advance (n : Nat) (tx : TxContext) : TxContext :=
  match tx.stage with
  | .address => { tx with stage := .control }
  | .control => { tx with stage := .payload, cursor := 0 }
  | .payload =>
    { tx with cursor := tx.cursor + 1, stage := if tx.cursor + 1 = n then .fcsHigh else .payload }
  | .fcsHigh => { tx with stage := .fcsLow }
  | .fcsLow => { tx with stage := .endFlag }
  | .startFlag => tx
  | .endFlag => tx
  | .done => tx

/-- The arms of `EncodeStep`. -/
inductive EncodeArm where
  | done
  | backpressure
  | escape2
  | startFlag
  | endFlag
  | address
  | control
  | payload
  | fcsHigh
  | fcsLow
  deriving DecidableEq, Repr

/-- Which arm a call of `EncodeStep` takes: the first test of R149 that holds. -/
def selectEncode (st : Station) (s : State) : EncodeArm :=
  if (s.tx st).stage = .done then .done
  else if queueFull s st.outQueue then .backpressure
  else if (s.tx st).escPending then .escape2
  else match (s.tx st).stage with
    | .startFlag => .startFlag
    | .endFlag => .endFlag
    | .address => .address
    | .control => .control
    | .payload => .payload
    | .fcsHigh => .fcsHigh
    | .fcsLow => .fcsLow
    | .done => .done

/-- Writes one byte to the outbound queue and the transmit context. -/
def State.emit (s : State) (st : Station) (b : Byte) (tx : TxContext) : State :=
  ((s.qWrite st.outQueue b).setTx st tx).quiet

/-- A flag, sent literally; the stage moves on in the same call (R143, R144). -/
def sendFlag (st : Station) (next : Stage) (s : State) : State :=
  s.emit st Config.flag { s.tx st with curByte := Config.flag, stage := next }

/-- The second half of an escape sequence (R145). -/
def sendEscape2 (st : Station) (s : State) : State :=
  s.emit st ((s.tx st).curByte ^^^ Config.xorMask) (advance s.par.n { s.tx st with escPending := false })

/-- A logical byte: ESCAPE first where it is stuffed, else the byte itself (R146). -/
def sendLogical (st : Station) (b : Byte) (s : State) : State :=
  if needsStuffing b then s.emit st Config.escape { s.tx st with curByte := b, escPending := true }
  else s.emit st b (advance s.par.n { s.tx st with curByte := b })

/-- The stuffable stages: the logical byte of the stage, sent. A cursor outside the payload array is a fault (R12). -/
def sendStage (st : Station) (s : State) : Out :=
  match logicalByte (s.tx st) (s.txPacket st) with
  | some b => .next (sendLogical st b s)
  | none => .fault .payloadIndex

/-- `EncodeStep(S.tx, S.tx_packet, q)` (R149). It runs on any context, also on one that `TxInit` did not create from the packet it
sends, where R153 and U14 let a model refuse it: DESIGN CHOICE, safe (log 32). -/
def encodeStep (st : Station) (s : State) : Out :=
  match selectEncode st s with
  | .done => .next s.quiet
  | .backpressure => .next (s.report .nothing (some .backpressure))
  | .escape2 => .next (sendEscape2 st s)
  | .startFlag => .next (sendFlag st .address s)
  | .endFlag => .next (sendFlag st .done s)
  | .address => sendStage st s
  | .control => sendStage st s
  | .payload => sendStage st s
  | .fcsHigh => sendStage st s
  | .fcsLow => sendStage st s

/-- A row of `EncodeStep`, on whatever context the station holds (log 11, log 32). -/
def encodeArm (arm : EncodeArm) (st : Station) (s : State) : Out :=
  tellArm (decide (selectEncode st s = arm)) (encodeStep st s)

/-! ## DecodeStep (R160 to R175) -/

/-- `Route(rx, d)` (R168, R169). -/
def routeByte (n : Nat) (rx : RxContext) (d : Byte) : RxContext :=
  let p := rx.pos
  let stored :=
    if p = 0 then { rx with packet := { rx.packet with address := d } }
    else if p = 1 then { rx with packet := { rx.packet with control := d } }
    else if p ≤ n + 1 then { rx with packet := { rx.packet with payload := rx.packet.payload.set (p - 2) d } }
    else if p = n + 2 then { rx with fcsFirst := d }
    else if p = n + 3 then { rx with fcsSecond := d }
    else rx
  { stored with pos := if p ≤ n + 4 then p + 1 else p }

/-- `Route` on a station's context. -/
def State.route (s : State) (st : Station) (d : Byte) : State := s.setRx st (routeByte s.par.n (s.rx st) d)

/-- `ValidateFrame(rx, expected, result)` (R172): on success the result buffer and `rx.valid` are written, once; on a failure
nothing is, and the label is raised (R173). -/
def validateFrame (st : Station) (s : State) : State :=
  match validationLabel s.par.n (s.rx st) st.address with
  | some c => s.report .nothing (some c)
  | none =>
    if (s.rx st).valid then s.quiet
    else
      ((s.setResult st { control := (s.rx st).packet.control, payload := (s.rx st).packet.payload }).setRx st
        { s.rx st with valid := true }).quiet

/-- What a receiver does with a byte it has read, by the byte's class (R163 to R166). -/
def consumeAs (cls : ByteClass) (st : Station) (b : Byte) (s : State) : State :=
  match cls with
  | .unescape => ((s.setRx st { s.rx st with unescPending := false }).route st (b ^^^ Config.xorMask)).quiet
  | .escape => (s.setRx st { s.rx st with unescPending := true }).quiet
  | .flagOpen => (s.setRx st { s.rx st with pos := 0, started := true }).quiet
  | .flagClose => validateFrame st (s.setRx st { s.rx st with assembled := true })
  | .data => (s.route st b).quiet

/-- What a receiver does with a byte it has read (R100, R167). -/
def consume (st : Station) (b : Byte) (s : State) : State := consumeAs (classify (s.rx st) b) st b s

/-- The arms of `DecodeStep`. -/
inductive DecodeArm where
  | stalled
  | empty
  | byte (cls : ByteClass)
  deriving DecidableEq, Repr

/-- Which arm a call of `DecodeStep` takes: the first test of R167 that holds. -/
def selectDecode (st : Station) (s : State) : DecodeArm :=
  if (s.rx st).assembled then .stalled
  else match s.queue st.inQueue with
    | [] => .empty
    | b :: _ => .byte (classify (s.rx st) b)

/-- `DecodeStep(S.rx, q, expected, S.result)` (R167). -/
def decodeStep (st : Station) (s : State) : State :=
  if (s.rx st).assembled then s.quiet
  else match s.queue st.inQueue with
    | [] => s.report .nothing (some .backpressure)
    | b :: _ => consume st b (s.qDrop st.inQueue)

/-- A row of `DecodeStep` (log 11). -/
def decodeArm (arm : DecodeArm) (st : Station) (s : State) : Out :=
  tellArm (decide (selectDecode st s = arm)) (.next (decodeStep st s))

/-- A wire byte handed to a station's receiver, past the queue: a closed context is inert (R161), any other takes the byte
as R100 says (log 12). -/
def deliver (st : Station) (b : Byte) (s : State) : State :=
  if (s.rx st).assembled then s.quiet else consume st b s

/-- Wire bytes handed to a station's receiver in order. -/
def deliverAll (st : Station) : List Byte → State → State
  | [], s => s
  | b :: bs, s => deliverAll st bs (deliver st b s)

/-! ## The command processor and the timer -/

/-- What a command does to a payload (R246, R247). -/
def Command.run : Command → List Byte → List Byte
  | .complement, p => p.map (fun b => ~~~b)
  | .reverse, p => p.reverse
  | .unknown _, p => p

/-- `CmdProcess(c, p)` (R245). The contract is for `N` bytes; a payload of another length is processed in the same way: DESIGN
CHOICE, unsafe (log 22). -/
def cmdProcess (c : Byte) (p : List Byte) : List Byte := Command.run (commandOf c) p

/-- `SetDeadline(d)`: armed now; the duration is a `CLOCK_W`-bit value (R240, log 20). -/
def setDeadline (s : State) (d : Nat) : Deadline :=
  { armed := true, tStart := s.clock, duration := d % 2 ^ s.par.clockW }

/-! ## Taking a condition (R260, R270 to R272)

What stands here for the entry of an exception: nothing is saved, there is no vector and no return (R272). -/

/-- The owning FSM goes to its initial state (R50, R270). -/
def State.toInitialState (s : State) : Station → State
  | .initiator => { s with ini := { s.ini with state := .prepare } }
  | .responder => { s with res := { s.res with state := .waitCommand } }

/-- The recovery of a failed validation: `RxInit`, and the initial state (R195, R212, R270). -/
def abandonFrame (st : Station) (s : State) : State := (s.setRx st (rxInit s.par.n)).toInitialState st

/-- Clears `I.deadline.armed` (R193, R194, R242). -/
def State.disarm (s : State) : State :=
  { s with ini := { s.ini with deadline := { s.ini.deadline with armed := false } } }

/-- Takes a condition at a station: the table of R270; Backpressure and FrameIncomplete change nothing (R271), and only the
initiator has a deadline (R260). -/
def takeCondition (c : Condition) (st : Station) (s : State) : State :=
  match c with
  | .backpressure => s
  | .frameIncomplete => s
  | .frameLengthError => abandonFrame st s
  | .addressMismatch => abandonFrame st s
  | .unknownCommand => abandonFrame st s
  | .checksumMismatch => abandonFrame st s
  | .replyTimeout =>
    match st with
    | .initiator => s.disarm.toInitialState .initiator
    | .responder => s

/-! ## Reset (R290) -/

/-- `RESET` of the block: every piece of state of both stations at once; queues, clock, inputs and parameters stay (R290,
R292). -/
def blockReset (s : State) : State :=
  { s with ini := Initiator.reset s.par.n, res := Responder.reset s.par.n }

/-! ## InitiatorStep (R190 to R199) -/

def State.setIState (s : State) (x : IState) : State := { s with ini := { s.ini with state := x } }

/-- The arms of `InitiatorStep`; `awaitIdle` is AwaitReply with neither a frame start nor a timeout (R197). -/
inductive InitiatorArm where
  | prepare
  | transmit
  | awaitStart
  | awaitTimeout
  | awaitIdle
  | receive
  | process
  deriving DecidableEq, Repr

/-- Which arm an activation of the initiator takes: `I.state`, and in AwaitReply the two tests that follow the
`DecodeStep`, frame start first (R193, R194, R266). -/
def selectInitiator (s : State) : InitiatorArm :=
  match s.ini.state with
  | .prepare => .prepare
  | .transmit => .transmit
  | .awaitReply =>
    let d := decodeStep .initiator s
    if d.ini.link.rx.started && !d.ini.link.rx.assembled then .awaitStart
    else if isExpired d d.ini.deadline then .awaitTimeout
    else .awaitIdle
  | .receive => .receive
  | .process => .process

/-- Prepare (R191). -/
def initiatorPrepare (s : State) : State :=
  let pkt : Packet := { address := Config.responderAddr, control := s.cfg.command, payload := s.cfgPayload }
  let crc := packetCrc pkt.address pkt.control pkt.payload
  (((s.setTxPacket .initiator pkt).setTx .initiator (txInit crc)).setRx .initiator (rxInit s.par.n)).setIState .transmit
    |>.quiet

/-- Transmit (R192): the test for Done follows the `EncodeStep` of the same activation. -/
def initiatorTransmit (s : State) : Out :=
  andThen (encodeStep .initiator s) fun e =>
    if e.ini.link.tx.stage = .done then
      .next { e with ini := { e.ini with deadline := setDeadline e e.par.replyTimeoutMs, state := .awaitReply } }
    else .next e

/-- AwaitReply, frame start (R193). -/
def initiatorAwaitStart (s : State) : State := (decodeStep .initiator s).disarm.setIState .receive

/-- AwaitReply, timeout (R194). -/
def initiatorAwaitTimeout (s : State) : State :=
  (takeCondition .replyTimeout .initiator (decodeStep .initiator s)).report .nothing (some .replyTimeout)

/-- Receive (R195). -/
def initiatorReceive (s : State) : State :=
  let d := decodeStep .initiator s
  if d.ini.link.rx.assembled then
    if d.ini.link.rx.valid then d.setIState .process else abandonFrame .initiator d
  else d

/-- Process (R196): the event ResultReady, and back to Prepare. -/
def initiatorProcess (s : State) : State :=
  ({ s with host := { s.host with ready := s.host.ready ++ [s.ini.link.result] } }.setIState .prepare).quiet

/-- `InitiatorStep()` (R199). -/
def initiatorStep (s : State) : Out :=
  match selectInitiator s with
  | .prepare => .next (initiatorPrepare s)
  | .transmit => initiatorTransmit s
  | .awaitStart => .next (initiatorAwaitStart s)
  | .awaitTimeout => .next (initiatorAwaitTimeout s)
  | .awaitIdle => .next (decodeStep .initiator s)
  | .receive => .next (initiatorReceive s)
  | .process => .next (initiatorProcess s)

/-- A row of `InitiatorStep` (log 11). -/
def initiatorArm (arm : InitiatorArm) (s : State) : Out :=
  tellArm (decide (selectInitiator s = arm)) (initiatorStep s)

/-! ## ResponderStep (R210 to R219) -/

def State.setRState (s : State) (x : RState) : State := { s with res := { s.res with state := x } }

/-- The arms of `ResponderStep`. -/
inductive ResponderArm where
  | waitCommand
  | receive
  | process
  | replyPoll
  | replyPreempt
  | replySend
  deriving DecidableEq, Repr

/-- Which arm an activation of the responder takes: `R.state`, and in Reply whether `QA` holds a byte and whether the
`DecodeStep` of that byte leaves a frame started (R216 to R218, R266). -/
def selectResponder (s : State) : ResponderArm :=
  match s.res.state with
  | .waitCommand => .waitCommand
  | .receive => .receive
  | .process => .process
  | .reply =>
    if queueEmpty s .qa then .replySend
    else if (decodeStep .responder s).res.link.rx.started then .replyPreempt
    else .replyPoll

/-- WaitCommand (R211). -/
def responderWaitCommand (s : State) : State :=
  let d := decodeStep .responder s
  if d.res.link.rx.started then d.setRState .receive else d

/-- Receive (R212). -/
def responderReceive (s : State) : State :=
  let d := decodeStep .responder s
  if d.res.link.rx.assembled then
    if d.res.link.rx.valid then d.setRState .process else abandonFrame .responder d
  else d

/-- Process (R214): the command processor, the reply packet with the request's control byte (R215), both contexts. -/
def responderProcess (s : State) : State :=
  let pkt : Packet :=
    { address := Config.initiatorAddr, control := s.res.link.result.control,
      payload := cmdProcess s.res.link.result.control s.res.link.result.payload }
  let crc := packetCrc pkt.address pkt.control pkt.payload
  (((s.setTxPacket .responder pkt).setTx .responder (txInit crc)).setRx .responder (rxInit s.par.n)).setRState .reply
    |>.quiet

/-- Reply, polling: one inbound byte, no encode attempt (R216). -/
def responderReplyPoll (s : State) : State := decodeStep .responder s

/-- Reply, preemption (R217): the opening flag is kept, the reply in flight is left as it is. -/
def responderReplyPreempt (s : State) : State :=
  ((decodeStep .responder s).setRx .responder (rxOpen s.par.n)).setRState .receive

/-- Reply, sending (R218). -/
def responderReplySend (s : State) : Out :=
  andThen (encodeStep .responder s) fun e =>
    if e.res.link.tx.stage = .done then
      .next ((e.setRx .responder (rxInit e.par.n)).setRState .waitCommand)
    else .next e

/-- `ResponderStep()` (R219). -/
def responderStep (s : State) : Out :=
  match selectResponder s with
  | .waitCommand => .next (responderWaitCommand s)
  | .receive => .next (responderReceive s)
  | .process => .next (responderProcess s)
  | .replyPoll => .next (responderReplyPoll s)
  | .replyPreempt => .next (responderReplyPreempt s)
  | .replySend => responderReplySend s

/-- A row of `ResponderStep` (log 11). -/
def responderArm (arm : ResponderArm) (s : State) : Out :=
  tellArm (decide (selectResponder s = arm)) (responderStep s)

end Sys2Proof.Machine
end

