-- ==== Sys2Proof/Machine/Enum.lean ====
section
/-! DEFINITION. The enumeration numbers (R105): each row is a number read against the register that holds the enumeration, as a
register dump reads it (R105, R252). The host is told whether the register holds that value; nothing else changes (log 15). -/

namespace Sys2Proof.Machine

/-- Whether `S.tx.stage` holds the value with a number (R24, R105). -/
def dumpStage (st : Station) (number : Nat) (s : State) : Out :=
  .next (s.report (.bool ((s.tx st).stage.number == number)) none)

/-- Whether `I.state` holds the value with a number (R41, R105). -/
def dumpIState (number : Nat) (s : State) : Out := .next (s.report (.bool (s.ini.state.number == number)) none)

/-- Whether `R.state` holds the value with a number (R42, R105). -/
def dumpRState (number : Nat) (s : State) : Out := .next (s.report (.bool (s.res.state.number == number)) none)

/-- STAGE_StartFlag: number 0 (R105). -/
def execStageStartFlag (st : Station) (s : State) : Out := dumpStage st 0 s

/-- STAGE_Address: number 1 (R105). -/
def execStageAddress (st : Station) (s : State) : Out := dumpStage st 1 s

/-- STAGE_Control: number 2 (R105). -/
def execStageControl (st : Station) (s : State) : Out := dumpStage st 2 s

/-- STAGE_Payload: number 3 (R105). -/
def execStagePayload (st : Station) (s : State) : Out := dumpStage st 3 s

/-- STAGE_FcsHigh: number 4 (R105). -/
def execStageFcsHigh (st : Station) (s : State) : Out := dumpStage st 4 s

/-- STAGE_FcsLow: number 5 (R105). -/
def execStageFcsLow (st : Station) (s : State) : Out := dumpStage st 5 s

/-- STAGE_EndFlag: number 6 (R105). -/
def execStageEndFlag (st : Station) (s : State) : Out := dumpStage st 6 s

/-- STAGE_Done: number 7 (R105). -/
def execStageDone (st : Station) (s : State) : Out := dumpStage st 7 s

/-- ISTATE_Prepare: number 0 (R105). -/
def execIstatePrepare (s : State) : Out := dumpIState 0 s

/-- ISTATE_Transmit: number 1 (R105). -/
def execIstateTransmit (s : State) : Out := dumpIState 1 s

/-- ISTATE_AwaitReply: number 2 (R105). -/
def execIstateAwaitReply (s : State) : Out := dumpIState 2 s

/-- ISTATE_Receive: number 3 (R105). -/
def execIstateReceive (s : State) : Out := dumpIState 3 s

/-- ISTATE_Process: number 4 (R105). -/
def execIstateProcess (s : State) : Out := dumpIState 4 s

/-- RSTATE_WaitCommand: number 0 (R105). -/
def execRstateWaitCommand (s : State) : Out := dumpRState 0 s

/-- RSTATE_Receive: number 1 (R105). -/
def execRstateReceive (s : State) : Out := dumpRState 1 s

/-- RSTATE_Process: number 2 (R105). -/
def execRstateProcess (s : State) : Out := dumpRState 2 s

/-- RSTATE_Reply: number 3 (R105). -/
def execRstateReply (s : State) : Out := dumpRState 3 s

end Sys2Proof.Machine
end

