-- ==== Sys2Proof/Machine/External.lean ====
section
/-! DEFINITION. The external collaborators as the environment calls them (45_external_collaborators.md): the byte queue (R231 to
R236), the timer (R239 to R241) and the command processor (R245 to R247). -/

namespace Sys2Proof.Machine

/-- Writes a byte from outside the block; a full queue is refused, as the source leaves it undefined (U1, R234). -/
def externalWrite (q : Queue) (bytes : List Byte) (s : State) : Out :=
  if (s.queue q).length + bytes.length ≤ s.capacity q then .next (s.setQueue q (s.queue q ++ bytes)).quiet
  else .refused .queueFull

/-- Reads a byte from outside the block; an empty queue is refused, as the source leaves it undefined (U2, R235). -/
def externalRead (q : Queue) (s : State) : Out :=
  match s.queue q with
  | [] => .refused .queueEmpty
  | b :: rest => .next ((s.setQueue q rest).report (.byte b) none)

/-- Q.ISFULL (R232). -/
def execQIsFull (q : Queue) (s : State) : Out := .next (s.report (.bool (queueFull s q)) none)

/-- Q.ISEMPTY (R233). -/
def execQIsEmpty (q : Queue) (s : State) : Out := .next (s.report (.bool (queueEmpty s q)) none)

/-- Q.WRITEBYTE (R234). -/
def execQWriteByte (q : Queue) (b : Byte) (s : State) : Out := externalWrite q [b] s

/-- Q.READBYTE (R235). -/
def execQReadByte (q : Queue) (s : State) : Out := externalRead q s

/-- Q.RESET (R236). -/
def execQReset (q : Queue) (s : State) : Out := .next (s.setQueue q []).quiet

/-- TIMER.NOW (R239). -/
def execTimerNow (s : State) : Out := .next (s.report (.time s.clock) none)

/-- TIMER.SETDEADLINE (R240). -/
def execTimerSetDeadline (durationMs : Nat) (s : State) : Out :=
  .next (s.report (.deadline (setDeadline s durationMs)) none)

/-- TIMER.ISEXPIRED (R241), of fields of any width (log 35). -/
def execTimerIsExpired (deadline : Deadline) (s : State) : Out := .next (s.report (.bool (isExpired s deadline)) none)

/-- CMDPROCESS (R245), of an input of any length (log 22). -/
def execCmdProcess (command : Byte) (input : List Byte) (s : State) : Out :=
  .next (s.report (.bytes (cmdProcess command input)) none)

/-- CMDPROCESS.COMPLEMENT (R246). -/
def execCmdProcessComplement (input : List Byte) (s : State) : Out :=
  .next (s.report (.bytes (Command.run .complement input)) none)

/-- CMDPROCESS.REVERSE (R246). -/
def execCmdProcessReverse (input : List Byte) (s : State) : Out :=
  .next (s.report (.bytes (Command.run .reverse input)) none)

/-- CMDPROCESS.UNKNOWN: the input passes through unchanged (R247). -/
def execCmdProcessUnknown (command : Byte) (input : List Byte) (s : State) : Out :=
  .next (s.report (.bytes (Command.run (.unknown command) input)) none)

end Sys2Proof.Machine
end

