-- ==== Sys2Proof/Machine/Field.lean ====
section
/-! DEFINITION. The data bytes of a frame by the field they stand in: the address byte at position 0, the control byte at position
1, and the rows of the position map (R71, R96, R97, R168, R169). Each hands a data byte to `Route`, which stores it where the
position counter says, whatever the row names; the host is told what the byte is where the counter stands at the row's
position (log 11, log 14). -/

namespace Sys2Proof.Machine

/-- A data byte routed, and what the host is told of it. -/
def routeTold (st : Station) (d : Byte) (told : Ret) (s : State) : Out := .next ((s.route st d).report told none)

/-- An address byte; at position 0 the host is told whether the station accepts that address (R96, R172). -/
def addressByte (st : Station) (a : Byte) (s : State) : Out :=
  routeTold st a (if (s.rx st).pos = 0 then .bool (a == st.address) else .nothing) s

/-- A control byte; at position 1 the host is told the command it stands for (R97, R105). -/
def controlByte (st : Station) (c : Byte) (s : State) : Out :=
  routeTold st c (if (s.rx st).pos = 1 then .command (commandOf c) else .nothing) s

/-- A data byte named by a position: the host is told whether the counter stands there. -/
def positionByte (here : Bool) (st : Station) (d : Byte) (s : State) : Out := routeTold st d (.bool here) s

/-- ADDR_INITIATOR (R96). -/
def execAddrInitiator (st : Station) (s : State) : Out := addressByte st Config.initiatorAddr s

/-- ADDR_RESPONDER (R96). -/
def execAddrResponder (st : Station) (s : State) : Out := addressByte st Config.responderAddr s

/-- ADDR_OTHER: an unassigned address (R96). -/
def execAddrOther (st : Station) (a : Byte) (s : State) : Out := addressByte st a s

/-- CMD_COMPLEMENT (R97). -/
def execCmdComplement (st : Station) (s : State) : Out := controlByte st Config.cmdComplement s

/-- CMD_REVERSE (R97). -/
def execCmdReverse (st : Station) (s : State) : Out := controlByte st Config.cmdReverse s

/-- CMD_RESERVED: any other control byte (R103). -/
def execCmdReserved (st : Station) (c : Byte) (s : State) : Out := controlByte st c s

/-- POS_ADDRESS: position 0 (R168). -/
def execPosAddress (st : Station) (d : Byte) (s : State) : Out := positionByte ((s.rx st).pos == 0) st d s

/-- POS_CONTROL: position 1 (R168). -/
def execPosControl (st : Station) (d : Byte) (s : State) : Out := positionByte ((s.rx st).pos == 1) st d s

/-- POS_PAYLOAD: positions 2 to `N + 1` (R168). -/
def execPosPayload (st : Station) (d : Byte) (s : State) : Out :=
  positionByte (decide (2 ≤ (s.rx st).pos) && decide ((s.rx st).pos ≤ s.par.n + 1)) st d s

/-- POS_FCS_FIRST: position `N + 2` (R168). -/
def execPosFcsFirst (st : Station) (d : Byte) (s : State) : Out :=
  positionByte ((s.rx st).pos == s.par.n + 2) st d s

/-- POS_FCS_SECOND: position `N + 3` (R168). -/
def execPosFcsSecond (st : Station) (d : Byte) (s : State) : Out :=
  positionByte ((s.rx st).pos == s.par.n + 3) st d s

/-- POS_OVERFLOW: positions `N + 4` and above; the byte is dropped (R169). -/
def execPosOverflow (st : Station) (d : Byte) (s : State) : Out :=
  positionByte (decide (s.par.n + 4 ≤ (s.rx st).pos)) st d s

end Sys2Proof.Machine
end

