-- ==== Sys2Proof/Machine/Frame.lean ====
section
/-! DEFINITION. Whole frames, consumed byte by byte by a station's receiver, and the check field (R90, R99, R101, R107). -/

namespace Sys2Proof.Machine

/-- FRAME: the wire bytes of the one frame format (R90, R94, R101), consumed by a receiver (log 13). -/
def execFrame (st : Station) (address control : Byte) (payload : List Byte) (s : State) : Out :=
  .next (deliverAll st (frameBytes address control payload) s)

/-- REQUEST: the frame the initiator sends, consumed by the responder's receiver (R107). -/
def execRequest (s : State) : Out :=
  .next (deliverAll .responder (frameBytes Config.responderAddr s.cfg.command s.cfgPayload) s)

/-- REPLY: the frame that answers the request in `R.result`, consumed by the initiator's receiver (R107). -/
def execReply (s : State) : Out :=
  .next (deliverAll .initiator
    (frameBytes Config.initiatorAddr s.res.link.result.control
      (cmdProcess s.res.link.result.control s.res.link.result.payload)) s)

/-- FCS: the two check bytes of a frame's content, in wire order (R99, R133). -/
def execFcs (address control : Byte) (payload : List Byte) (s : State) : Out :=
  .next (s.report (.bytes [fcsFirst (packetCrc address control payload), fcsSecond (packetCrc address control payload)])
    none)

end Sys2Proof.Machine
end

