-- ==== Sys2Proof/Machine/InitiatorFsm.lean ====
section
/-! DEFINITION. `InitiatorStep` arm by arm (43_initiator_fsm.md, R191 to R196). -/

namespace Sys2Proof.Machine

/-- INITIATORSTEP.PREPARE (R191). -/
def execInitiatorPrepare (s : State) : Out := initiatorArm .prepare s

/-- INITIATORSTEP.TRANSMIT (R192). -/
def execInitiatorTransmit (s : State) : Out := initiatorArm .transmit s

/-- INITIATORSTEP.AWAITREPLY.START (R193). -/
def execInitiatorAwaitStart (s : State) : Out := initiatorArm .awaitStart s

/-- INITIATORSTEP.AWAITREPLY.TIMEOUT (R194). -/
def execInitiatorAwaitTimeout (s : State) : Out := initiatorArm .awaitTimeout s

/-- INITIATORSTEP.RECEIVE (R195). -/
def execInitiatorReceive (s : State) : Out := initiatorArm .receive s

/-- INITIATORSTEP.PROCESS (R196). -/
def execInitiatorProcess (s : State) : Out := initiatorArm .process s

end Sys2Proof.Machine
end

