-- ==== Sys2Proof/Machine/ResponderFsm.lean ====
section
/-! DEFINITION. `ResponderStep` arm by arm (44_responder_fsm.md, R211 to R218). -/

namespace Sys2Proof.Machine

/-- RESPONDERSTEP.WAITCOMMAND (R211). -/
def execResponderWaitCommand (s : State) : Out := responderArm .waitCommand s

/-- RESPONDERSTEP.RECEIVE (R212). -/
def execResponderReceive (s : State) : Out := responderArm .receive s

/-- RESPONDERSTEP.PROCESS (R214). -/
def execResponderProcess (s : State) : Out := responderArm .process s

/-- RESPONDERSTEP.REPLY.POLL (R216). -/
def execResponderReplyPoll (s : State) : Out := responderArm .replyPoll s

/-- RESPONDERSTEP.REPLY.PREEMPT (R217). -/
def execResponderReplyPreempt (s : State) : Out := responderArm .replyPreempt s

/-- RESPONDERSTEP.REPLY.SEND (R218). -/
def execResponderReplySend (s : State) : Out := responderArm .replySend s

end Sys2Proof.Machine
end

