-- ==== Sys2Proof/Machine/RxCodec.lean ====
section
/-! DEFINITION. `DecodeStep` arm by arm (R161 to R166), `Route` (R168), `ValidateFrame` (R172), `RxInit` (R38), `RxOpen` (R39). -/

namespace Sys2Proof.Machine

/-- DECODESTEP.STALLED (R161). -/
def execDecodeStalled (st : Station) (s : State) : Out := decodeArm .stalled st s

/-- DECODESTEP.EMPTY (R162). -/
def execDecodeEmpty (st : Station) (s : State) : Out := decodeArm .empty st s

/-- DECODESTEP.UNESCAPE (R163). -/
def execDecodeUnescape (st : Station) (s : State) : Out := decodeArm (.byte .unescape) st s

/-- DECODESTEP.ESCAPE (R164). -/
def execDecodeEscape (st : Station) (s : State) : Out := decodeArm (.byte .escape) st s

/-- DECODESTEP.FLAG_OPEN (R165). -/
def execDecodeFlagOpen (st : Station) (s : State) : Out := decodeArm (.byte .flagOpen) st s

/-- DECODESTEP.FLAG_CLOSE (R165). -/
def execDecodeFlagClose (st : Station) (s : State) : Out := decodeArm (.byte .flagClose) st s

/-- DECODESTEP.DATA (R166). -/
def execDecodeData (st : Station) (s : State) : Out := decodeArm (.byte .data) st s

/-- ROUTE (R168, R169). -/
def execRoute (st : Station) (d : Byte) (s : State) : Out := .next (s.route st d).quiet

/-- VALIDATEFRAME (R172, R173). -/
def execValidateFrame (st : Station) (s : State) : Out := .next (validateFrame st s)

/-- RXINIT: `S.rx <- RxInit` (R38). -/
def execRxInit (st : Station) (s : State) : Out := .next (s.setRx st (rxInit s.par.n)).quiet

/-- RXOPEN: `S.rx <- RxOpen` (R39). -/
def execRxOpen (st : Station) (s : State) : Out := .next (s.setRx st (rxOpen s.par.n)).quiet

end Sys2Proof.Machine
end

