-- ==== Sys2Proof/Machine/Script.lean ====
section
/-! DEFINITION. The reset of the block (R290) and the lines of a stimulus script (R118). -/

namespace Sys2Proof.Machine

/-- RESET: the block alone (R290, R292). -/
def execReset (s : State) : Out := .next (blockReset s).quiet

/-- Line `RESET`: the block, and both queues emptied (R118, R292). -/
def execScriptReset (s : State) : Out := .next { blockReset s with qa := [], qb := [] }.quiet

/-- Line `CFG`: drives the configuration inputs (R45, R118), before or after the line that fixes `N`, since the order of the two does
not matter (R295). -/
def execScriptCfg (cmd : Byte) (payload : List Byte) (s : State) : Out :=
  .next { s with cfg := { command := cmd, payload := payload } }.quiet

/-- A build with another `N`: both stations at their reset values with arrays of the new size (R8, R23; log 4). The configuration
inputs stay as they are driven (R295). -/
def rebuild (n : Nat) (s : State) : State :=
  { s with ini := Initiator.reset n, res := Responder.reset n, par := { s.par with n := n } }

/-- Another clock width: the clock and the deadline keep their low-order bits (R239, R44; log 4). -/
def setClockWidth (w : Nat) (s : State) : State :=
  { s with
    par := { s.par with clockW := w }
    clock := s.clock % 2 ^ w
    ini := { s.ini with
      deadline := { s.ini.deadline with
        tStart := s.ini.deadline.tStart % 2 ^ w, duration := s.ini.deadline.duration % 2 ^ w } } }

/-- Line `PARAM`: fixes a parameter for the run (R8, R118, U13; log 4). -/
def execScriptParam (name : ParamName) (value : Nat) (s : State) : Out :=
  match name with
  | .n =>
    if value = 0 then .refused .badParameter
    else if value = s.par.n then .next s.quiet
    else .next (rebuild value s).quiet
  | .c =>
    if value = 0 ∨ value < s.qa.length ∨ value < s.qb.length then .refused .badParameter
    else .next { s with par := { s.par with capQA := value, capQB := value } }.quiet
  | .replyTimeoutMs => .next { s with par := { s.par with replyTimeoutMs := value } }.quiet
  | .clockW => .next (setClockWidth value s).quiet

/-- Line `CLOCK` (R118). `Now()` has `CLOCK_W` bits (R239), so a `t` that does not fit is taken modulo `2^CLOCK_W`: DESIGN CHOICE,
unsafe (log 31). -/
def execScriptClock (t : Nat) (s : State) : Out := .next { s with clock := t % 2 ^ s.par.clockW }.quiet

/-- Line `TICK`: advances the clock, modulo `2^CLOCK_W` (R118, R239). -/
def execScriptTick (d : Nat) (s : State) : Out := .next { s with clock := (s.clock + d) % 2 ^ s.par.clockW }.quiet

/-- Line `STEP I`: one activation of the initiator (R118, R199). It is no activation of the reference schedule: whose turn it is
stays as it was. DESIGN CHOICE, unsafe (log 7). -/
def execScriptStepI (s : State) : Out := initiatorStep s

/-- Line `STEP R`: one activation of the responder (R118, R219); the turn stays as it was (log 7). -/
def execScriptStepR (s : State) : Out := responderStep s

/-- `k` copies of some lines. -/
def repeatLines : Nat → List FetchWord → List FetchWord
  | 0, _ => []
  | k + 1, body => body ++ repeatLines k body

/-- Line `LOOP`: the enclosed lines, which are the next `lines` of the script, repeated (R118; log 26). -/
def execScriptLoop (count lines : Nat) (s : State) : Out :=
  if s.prog.length < lines then .refused .loopBody
  else .next { s with prog := repeatLines count (s.prog.take lines) ++ s.prog.drop lines }.quiet

/-- Line `PUSH`: each byte needs free room (R118, R234, U1). -/
def execScriptPush (q : Queue) (bytes : List Byte) (s : State) : Out := externalWrite q bytes s

/-- Line `POP` (R118, R235, U2). -/
def execScriptPop (q : Queue) (s : State) : Out := externalRead q s

/-- Line `EXPECT`: an assertion on state and no event; the host is told whether it holds (R118; log 16). -/
def execScriptExpect (p : Pred) (s : State) : Out := .next (s.report (.bool (holds s p)) none)

end Sys2Proof.Machine
end

