-- ==== Sys2Proof/Machine/TxCodec.lean ====
section
/-! DEFINITION. The CRC engine as an operation (R130), `EncodeStep` arm by arm (R141 to R146), `Advance` (R147), `TxInit` (R29). -/

namespace Sys2Proof.Machine

/-- CRC16: a pure function; the word is returned and nothing else changes (R130). -/
def execCrc16 (bytes : List Byte) (s : State) : Out := .next (s.report (.word (crc16 bytes)) none)

/-- ENCODESTEP.DONE (R141). -/
def execEncodeDone (st : Station) (s : State) : Out := encodeArm .done st s

/-- ENCODESTEP.BACKPRESSURE (R142). -/
def execEncodeBackpressure (st : Station) (s : State) : Out := encodeArm .backpressure st s

/-- ENCODESTEP.STARTFLAG (R143). -/
def execEncodeStartFlag (st : Station) (s : State) : Out := encodeArm .startFlag st s

/-- ENCODESTEP.ENDFLAG (R144). -/
def execEncodeEndFlag (st : Station) (s : State) : Out := encodeArm .endFlag st s

/-- ENCODESTEP.ESCAPE2 (R145). -/
def execEncodeEscape2 (st : Station) (s : State) : Out := encodeArm .escape2 st s

/-- ENCODESTEP.ADDRESS (R146). -/
def execEncodeAddress (st : Station) (s : State) : Out := encodeArm .address st s

/-- ENCODESTEP.CONTROL (R146). -/
def execEncodeControl (st : Station) (s : State) : Out := encodeArm .control st s

/-- ENCODESTEP.PAYLOAD (R146). -/
def execEncodePayload (st : Station) (s : State) : Out := encodeArm .payload st s

/-- ENCODESTEP.FCSHIGH (R146). -/
def execEncodeFcsHigh (st : Station) (s : State) : Out := encodeArm .fcsHigh st s

/-- ENCODESTEP.FCSLOW (R146). -/
def execEncodeFcsLow (st : Station) (s : State) : Out := encodeArm .fcsLow st s

/-- ADVANCE (R147). -/
def execAdvance (st : Station) (s : State) : Out := .next (s.setTx st (advance s.par.n (s.tx st))).quiet

/-- TXINIT: `S.tx <- TxInit(crc)` (R29). -/
def execTxInit (st : Station) (crc : Word) (s : State) : Out := .next (s.setTx st (txInit crc)).quiet

end Sys2Proof.Machine
end

