-- ==== Sys2Proof/Machine/Wire.lean ====
section
/-! DEFINITION. The wire bytes and wire pairs (R91 to R95, R100, R102): each is handed to a station's receiver, which takes it as
its state says (log 12). Bytes on the wire that make up no row of the table are taken in the same way. -/

namespace Sys2Proof.Machine

/-- FLAG: opens a frame when none is open, closes it when one is (R91, R165); after an ESCAPE it is data (R100). -/
def execFlag (st : Station) (s : State) : Out := .next (deliver st Config.flag s)

/-- ESCAPE: the next byte is the second half of an escape sequence (R92, R164). -/
def execEscape (st : Station) (s : State) : Out := .next (deliver st Config.escape s)

/-- DATA: a byte that stands for itself (R95, R166). -/
def execData (st : Station) (d : Byte) (s : State) : Out := .next (deliver st d s)

/-- ESCAPED: the byte after an ESCAPE, whatever it is, stands for itself XOR 0x20 (R93, R100, R163). -/
def execEscaped (st : Station) (x : Byte) (s : State) : Out := .next (deliver st x s)

/-- ESC_FLAG: the pair that stands for the data byte 0x7E (R93). -/
def execEscFlag (st : Station) (s : State) : Out := .next (deliverAll st [Config.escape, Config.escapedFlag] s)

/-- ESC_ESCAPE: the pair that stands for the data byte 0x7D (R93). -/
def execEscEscape (st : Station) (s : State) : Out := .next (deliverAll st [Config.escape, Config.escapedEscape] s)

/-- ESC_OTHER: a pair the transmitter never makes, accepted all the same (R102, R177). -/
def execEscOther (st : Station) (x : Byte) (s : State) : Out := .next (deliverAll st [Config.escape, x] s)

/-- A word the decoder rejects. On the wire none traps (R102): a frame with other check bytes, cut short, over-long or with a
flag inside, and a pair without ESCAPE, are bytes the receiver takes one by one. In any other place the spec has no operation,
line or number with those bits (R105, R106, R118). -/
def runRejected (w : FetchWord) (e : DecodeError) (s : State) : Out :=
  if w.fmt.onWire then .next (deliverAll w.st w.bytes s.quiet) else .refused (.undecodable e)

end Sys2Proof.Machine
end

