-- ==== Sys2Proof/Machine/Dispatch.lean ====
section
/-! DEFINITION. Which meaning each instruction has: one arm for each row of spec/opcode_table.json, in the table's order. -/

namespace Sys2Proof.Machine

def exec (i : Instr) (s : State) : Host.Outcome State Fault Refusal :=
  match i with
  | .flag st => Sys2Proof.Machine.execFlag st s
  | .escape st => Sys2Proof.Machine.execEscape st s
  | .data st d => Sys2Proof.Machine.execData st d s
  | .escaped st x => Sys2Proof.Machine.execEscaped st x s
  | .escFlag st => Sys2Proof.Machine.execEscFlag st s
  | .escEscape st => Sys2Proof.Machine.execEscEscape st s
  | .escOther st x => Sys2Proof.Machine.execEscOther st x s
  | .frame st address control payload => Sys2Proof.Machine.execFrame st address control payload s
  | .request => Sys2Proof.Machine.execRequest s
  | .reply => Sys2Proof.Machine.execReply s
  | .fcs address control payload => Sys2Proof.Machine.execFcs address control payload s
  | .addrInitiator st => Sys2Proof.Machine.execAddrInitiator st s
  | .addrResponder st => Sys2Proof.Machine.execAddrResponder st s
  | .addrOther st a => Sys2Proof.Machine.execAddrOther st a s
  | .cmdComplement st => Sys2Proof.Machine.execCmdComplement st s
  | .cmdReverse st => Sys2Proof.Machine.execCmdReverse st s
  | .cmdReserved st c => Sys2Proof.Machine.execCmdReserved st c s
  | .posAddress st d => Sys2Proof.Machine.execPosAddress st d s
  | .posControl st d => Sys2Proof.Machine.execPosControl st d s
  | .posPayload st d => Sys2Proof.Machine.execPosPayload st d s
  | .posFcsFirst st d => Sys2Proof.Machine.execPosFcsFirst st d s
  | .posFcsSecond st d => Sys2Proof.Machine.execPosFcsSecond st d s
  | .posOverflow st d => Sys2Proof.Machine.execPosOverflow st d s
  | .stageStartFlag st => Sys2Proof.Machine.execStageStartFlag st s
  | .stageAddress st => Sys2Proof.Machine.execStageAddress st s
  | .stageControl st => Sys2Proof.Machine.execStageControl st s
  | .stagePayload st => Sys2Proof.Machine.execStagePayload st s
  | .stageFcsHigh st => Sys2Proof.Machine.execStageFcsHigh st s
  | .stageFcsLow st => Sys2Proof.Machine.execStageFcsLow st s
  | .stageEndFlag st => Sys2Proof.Machine.execStageEndFlag st s
  | .stageDone st => Sys2Proof.Machine.execStageDone st s
  | .istatePrepare => Sys2Proof.Machine.execIstatePrepare s
  | .istateTransmit => Sys2Proof.Machine.execIstateTransmit s
  | .istateAwaitReply => Sys2Proof.Machine.execIstateAwaitReply s
  | .istateReceive => Sys2Proof.Machine.execIstateReceive s
  | .istateProcess => Sys2Proof.Machine.execIstateProcess s
  | .rstateWaitCommand => Sys2Proof.Machine.execRstateWaitCommand s
  | .rstateReceive => Sys2Proof.Machine.execRstateReceive s
  | .rstateProcess => Sys2Proof.Machine.execRstateProcess s
  | .rstateReply => Sys2Proof.Machine.execRstateReply s
  | .crc16 bytes => Sys2Proof.Machine.execCrc16 bytes s
  | .encodeDone st => Sys2Proof.Machine.execEncodeDone st s
  | .encodeBackpressure st => Sys2Proof.Machine.execEncodeBackpressure st s
  | .encodeStartFlag st => Sys2Proof.Machine.execEncodeStartFlag st s
  | .encodeEndFlag st => Sys2Proof.Machine.execEncodeEndFlag st s
  | .encodeEscape2 st => Sys2Proof.Machine.execEncodeEscape2 st s
  | .encodeAddress st => Sys2Proof.Machine.execEncodeAddress st s
  | .encodeControl st => Sys2Proof.Machine.execEncodeControl st s
  | .encodePayload st => Sys2Proof.Machine.execEncodePayload st s
  | .encodeFcsHigh st => Sys2Proof.Machine.execEncodeFcsHigh st s
  | .encodeFcsLow st => Sys2Proof.Machine.execEncodeFcsLow st s
  | .advance st => Sys2Proof.Machine.execAdvance st s
  | .txInit st crc => Sys2Proof.Machine.execTxInit st crc s
  | .decodeStalled st => Sys2Proof.Machine.execDecodeStalled st s
  | .decodeEmpty st => Sys2Proof.Machine.execDecodeEmpty st s
  | .decodeUnescape st => Sys2Proof.Machine.execDecodeUnescape st s
  | .decodeEscape st => Sys2Proof.Machine.execDecodeEscape st s
  | .decodeFlagOpen st => Sys2Proof.Machine.execDecodeFlagOpen st s
  | .decodeFlagClose st => Sys2Proof.Machine.execDecodeFlagClose st s
  | .decodeData st => Sys2Proof.Machine.execDecodeData st s
  | .route st d => Sys2Proof.Machine.execRoute st d s
  | .validateFrame st => Sys2Proof.Machine.execValidateFrame st s
  | .rxInit st => Sys2Proof.Machine.execRxInit st s
  | .rxOpen st => Sys2Proof.Machine.execRxOpen st s
  | .initiatorPrepare => Sys2Proof.Machine.execInitiatorPrepare s
  | .initiatorTransmit => Sys2Proof.Machine.execInitiatorTransmit s
  | .initiatorAwaitStart => Sys2Proof.Machine.execInitiatorAwaitStart s
  | .initiatorAwaitTimeout => Sys2Proof.Machine.execInitiatorAwaitTimeout s
  | .initiatorReceive => Sys2Proof.Machine.execInitiatorReceive s
  | .initiatorProcess => Sys2Proof.Machine.execInitiatorProcess s
  | .responderWaitCommand => Sys2Proof.Machine.execResponderWaitCommand s
  | .responderReceive => Sys2Proof.Machine.execResponderReceive s
  | .responderProcess => Sys2Proof.Machine.execResponderProcess s
  | .responderReplyPoll => Sys2Proof.Machine.execResponderReplyPoll s
  | .responderReplyPreempt => Sys2Proof.Machine.execResponderReplyPreempt s
  | .responderReplySend => Sys2Proof.Machine.execResponderReplySend s
  | .qIsFull q => Sys2Proof.Machine.execQIsFull q s
  | .qIsEmpty q => Sys2Proof.Machine.execQIsEmpty q s
  | .qWriteByte q b => Sys2Proof.Machine.execQWriteByte q b s
  | .qReadByte q => Sys2Proof.Machine.execQReadByte q s
  | .qReset q => Sys2Proof.Machine.execQReset q s
  | .timerNow => Sys2Proof.Machine.execTimerNow s
  | .timerSetDeadline durationMs => Sys2Proof.Machine.execTimerSetDeadline durationMs s
  | .timerIsExpired deadline => Sys2Proof.Machine.execTimerIsExpired deadline s
  | .cmdProcess command input => Sys2Proof.Machine.execCmdProcess command input s
  | .cmdProcessComplement input => Sys2Proof.Machine.execCmdProcessComplement input s
  | .cmdProcessReverse input => Sys2Proof.Machine.execCmdProcessReverse input s
  | .cmdProcessUnknown command input => Sys2Proof.Machine.execCmdProcessUnknown command input s
  | .reset => Sys2Proof.Machine.execReset s
  | .scriptReset => Sys2Proof.Machine.execScriptReset s
  | .scriptCfg cmd payload => Sys2Proof.Machine.execScriptCfg cmd payload s
  | .scriptParam name value => Sys2Proof.Machine.execScriptParam name value s
  | .scriptClock t => Sys2Proof.Machine.execScriptClock t s
  | .scriptTick d => Sys2Proof.Machine.execScriptTick d s
  | .scriptStepI => Sys2Proof.Machine.execScriptStepI s
  | .scriptStepR => Sys2Proof.Machine.execScriptStepR s
  | .scriptLoop count lines => Sys2Proof.Machine.execScriptLoop count lines s
  | .scriptPush q bytes => Sys2Proof.Machine.execScriptPush q bytes s
  | .scriptPop q => Sys2Proof.Machine.execScriptPop q s
  | .scriptExpect p => Sys2Proof.Machine.execScriptExpect p s

end Sys2Proof.Machine
end

