-- ==== Sys2Proof/Machine/Notation.lean ====
section
/-! DEFINITION. The textual notation of a stimulus script (R118): lines on physical lines or separated by a semicolon, comments
from two hyphens to the end of the physical line, bytes in hexadecimal without prefix, `a .. b` for a run, nested LOOPs.
R118 gives the predicate of an EXPECT line no notation: such a line is built as an instruction and not read from text (log 16). -/

namespace Sys2Proof.Machine

/-- A token of the notation. -/
inductive Token where
  | word (cs : List Char)
  | equals
  | opened
  | closed
  | separator
  deriving DecidableEq, Repr

/-- The word collected so far, in reverse, as a token in front of the others. -/
def flushWord (cur : List Char) (ts : List Token) : List Token :=
  if cur.isEmpty then ts else .word cur.reverse :: ts

/-- The tokens of a text; the flag says that a comment is being skipped. -/
def lex : List Char → List Char → Bool → List Token
  | [], cur, _ => flushWord cur []
  | c :: cs, cur, comment =>
    if c = '\n' then flushWord cur (.separator :: lex cs [] false)
    else if comment then lex cs [] true
    else if c = '-' ∧ cs.head? = some '-' then flushWord cur (lex cs [] true)
    else if c = ';' then flushWord cur (.separator :: lex cs [] false)
    else if c = '=' then flushWord cur (.equals :: lex cs [] false)
    else if c.toNat = 0x7B then flushWord cur (.opened :: lex cs [] false)
    else if c.toNat = 0x7D then flushWord cur (.closed :: lex cs [] false)
    else if c = ' ' then flushWord cur (lex cs [] false)
    else lex cs (c :: cur) false

/-- The digits, each at the place that is its value. -/
def digitChars : List Char := "0123456789ABCDEF".toList

/-- The value of a digit below a base; letters of either case (log 30). -/
def digitValue (base : Nat) (c : Char) : Option Nat := (digitChars.take base).idxOf? c.toUpper

/-- Digits, highest first, after the value read so far. -/
def digits (base : Nat) : Nat → List Char → Option Nat
  | acc, [] => some acc
  | acc, c :: cs => (digitValue base c).bind fun v => digits base (acc * base + v) cs

/-- A decimal number. -/
def decimal (cs : List Char) : Option Nat := if cs.isEmpty then none else digits 10 0 cs

/-- A byte in hexadecimal. -/
def hexByte (cs : List Char) : Option Byte :=
  if cs.isEmpty then none else (digits 16 0 cs).bind fun v => if v < 256 then some (BitVec.ofNat 8 v) else none

/-- The bytes after `a` up to `b`, where `a <= b`. -/
def runAfter (a b : Byte) : Option (List Byte) :=
  if a.toNat ≤ b.toNat then
    some ((List.range (b.toNat - a.toNat)).map fun k => BitVec.ofNat 8 (a.toNat + 1 + k))
  else none

/-- Bytes, with `a .. b` for a run of consecutive values. -/
def byteList : List Token → Option (List Byte)
  | [] => some []
  | .word a :: .word dots :: .word b :: rest =>
    if dots = ['.', '.'] then
      (hexByte a).bind fun x => (hexByte b).bind fun y => (runAfter x y).bind fun more =>
        (byteList rest).map fun tail => x :: (more ++ tail)
    else (hexByte a).bind fun x => (byteList (.word dots :: .word b :: rest)).map fun tail => x :: tail
  | .word a :: rest => (hexByte a).bind fun x => (byteList rest).map fun tail => x :: tail
  | _ => none

/-- The name of a queue. -/
def queueName (cs : List Char) : Option Queue :=
  if cs = "QA".toList then some .qa else if cs = "QB".toList then some .qb else none

/-- The name of a parameter. -/
def paramNamed (cs : List Char) : Option ParamName :=
  if cs = "N".toList then some .n
  else if cs = "C".toList then some .c
  else if cs = "REPLY_TIMEOUT_MS".toList then some .replyTimeoutMs
  else if cs = "CLOCK_W".toList then some .clockW
  else none

/-- The operands of a line, by its keyword. -/
def parseOperands (keyword : List Char) (operands : List Token) : Option Instr :=
  if keyword = "RESET".toList then (if operands.isEmpty then some .scriptReset else none)
  else if keyword = "CFG".toList then
    match operands with
    | .word k :: .equals :: .word b :: .word p :: .equals :: rest =>
      if k = "cmd".toList ∧ p = "payload".toList then
        (hexByte b).bind fun cmd => (byteList rest).map fun payload => .scriptCfg cmd payload
      else none
    | _ => none
  else if keyword = "PARAM".toList then
    match operands with
    | [.word name, .equals, .word v] => (paramNamed name).bind fun param => (decimal v).map fun x => .scriptParam param x
    | _ => none
  else if keyword = "CLOCK".toList then
    match operands with
    | [.word t] => (decimal t).map .scriptClock
    | _ => none
  else if keyword = "TICK".toList then
    match operands with
    | [.word d] => (decimal d).map .scriptTick
    | _ => none
  else if keyword = "STEP".toList then
    match operands with
    | [.word w] =>
      if w = "I".toList then some .scriptStepI else if w = "R".toList then some .scriptStepR else none
    | _ => none
  else if keyword = "PUSH".toList then
    match operands with
    | .word q :: rest => (queueName q).bind fun q => (byteList rest).map fun bs => .scriptPush q bs
    | _ => none
  else if keyword = "POP".toList then
    match operands with
    | [.word q] => (queueName q).map .scriptPop
    | _ => none
  else none

/-- One line that is not a LOOP. -/
def parseLine : List Token → Option Instr
  | .word keyword :: operands => parseOperands keyword operands
  | _ => none

/-- Whether a token ends a line. -/
def endsLine (t : Token) : Bool := t == .separator || t == .closed

/-- The lines up to the end or to a closing brace; the number bounds the tokens left. A LOOP is followed by the lines it
encloses, and counts them (log 26). -/
def parseLines : Nat → List Token → Option (List Instr × List Token)
  | 0, _ => none
  | _ + 1, [] => some ([], [])
  | fuel + 1, t :: rest =>
    if t = .separator then parseLines fuel rest
    else if t = .closed then some ([], .closed :: rest)
    else
      match t, rest with
      | .word keyword, .word k :: .opened :: inner =>
        if keyword = "LOOP".toList then
          (decimal k).bind fun count =>
            match parseLines fuel inner with
            | some (body, .closed :: after) =>
              (parseLines fuel after).map fun (tail, left) => (.scriptLoop count body.length :: (body ++ tail), left)
            | _ => none
        else none
      | _, _ =>
        (parseLine ((t :: rest).takeWhile (fun x => !endsLine x))).bind fun i =>
          (parseLines fuel (rest.dropWhile (fun x => !endsLine x))).map fun (tail, left) => (i :: tail, left)

/-- The instructions of a script written as text; `none` where the text is no script. -/
def parseScript (text : String) : Option (List Instr) :=
  let tokens := lex text.toList [] false
  match parseLines (tokens.length + 1) tokens with
  | some (lines, []) => some lines
  | _ => none

end Sys2Proof.Machine
end

