-- ==== Sys2Proof/Machine/Step.lean ====
section
/-! DEFINITION. One step of the system. With a script loaded, the next fetch word is taken off it, decoded and run; bytes on the
wire run also where they are no row of the table (R102). With none, the driving loop goes on: the clock advances by a free
amount and the station whose turn it is makes one activation, the stations alternating, initiator first (R73, R118, R239,
R250, R251; log 1, log 7). -/

namespace Sys2Proof.Machine

/-- The clock advances by a free amount (R239, U11). -/
def State.freeTick (s : State) : State :=
  { s with clock := (s.clock + Config.clockAdvance s.free) % 2 ^ s.par.clockW, free := s.free + 1 }

/-- The activation of a station, as a line of the script names it. -/
def activation : Station → Instr
  | .initiator => .scriptStepI
  | .responder => .scriptStepR

/-- One step. -/
def step (s : State) : Host.Outcome State Fault Refusal :=
  match s.prog with
  | w :: rest =>
    match decode w with
    | .ok i => if i.wellFormed then exec i { s with prog := rest } else .refused .illFormed
    | .error e => runRejected w e { s with prog := rest }
  | [] => exec (activation s.turn) { s.freeTick with turn := s.turn.peer }

/-- The state with a script loaded in front of what is left of the one before. -/
def State.load (s : State) (is : List Instr) : State := { s with prog := is.map encode ++ s.prog }

/-- The state with a script loaded from its text; `none` where the text is no script (R118). -/
def State.loadText (s : State) (text : String) : Option State := (parseScript text).map s.load

/-- The state whose next fetch word is a bare word of the opcode table (log 1, log 2). -/
def State.withFetchWord (s : State) (nbits w : Nat) : State := { s with prog := tableWord nbits w :: s.prog }

end Sys2Proof.Machine
end

