-- ==== Sys2Proof/Safety.lean ====
section
/-! DEFINITION. What claims mean by a good state: the queues within their capacities, the sizes and ranges of the registers, and
the invariants R49 lists for every state reachable by the rules. -/

namespace Sys2Proof.Machine

/-- The memory of the system is its two queues (R15, R60): each holds at most its capacity (R61, R231). -/
def Memory.wf (s : State) : Bool :=
  decide (s.qa.length ≤ s.par.capQA) && decide (s.qb.length ≤ s.par.capQB)

/-- Every payload array of a station holds `n` bytes (R23, R34, R40, R43), and the counters are in their ranges (R25, R35). -/
def Link.Sized (n : Nat) (l : Link) : Prop :=
  l.txPacket.payload.length = n ∧ l.rx.packet.payload.length = n ∧ l.result.payload.length = n

/-- The sizes of the whole state: parameters (R8), arrays (R23), queues (R61), clock (R239). -/
def Sized (s : State) : Prop :=
  1 ≤ s.par.n ∧ 1 ≤ s.par.capQA ∧ 1 ≤ s.par.capQB ∧ Memory.wf s = true ∧ s.clock < 2 ^ s.par.clockW ∧
    s.ini.link.Sized s.par.n ∧ s.res.link.Sized s.par.n

/-- The stages in which a logical byte is sent, and stuffed where needed (R146). -/
def Stage.stuffable : Stage → Bool
  | .address => true
  | .control => true
  | .payload => true
  | .fcsHigh => true
  | .fcsLow => true
  | .startFlag => false
  | .endFlag => false
  | .done => false

/-- The lines of R49 about a transmit context, with the range of its cursor (R25). -/
def TxContext.Ok (n : Nat) (tx : TxContext) : Prop :=
  tx.cursor ≤ n ∧
    (tx.escPending = true → Stage.stuffable tx.stage = true ∧ (tx.curByte = Config.flag ∨ tx.curByte = Config.escape)) ∧
    (tx.stage = .payload → tx.cursor + 1 ≤ n) ∧
    (Stage.number .payload < tx.stage.number → tx.cursor = n)

/-- The lines of R49 about a receive context, with the range of its position counter (R35). -/
def RxContext.Ok (n : Nat) (rx : RxContext) : Prop :=
  rx.pos ≤ n + 5 ∧
    (rx.assembled = true → rx.started = true ∧ rx.unescPending = false) ∧
    (rx.valid = true → rx.assembled = true ∧ rx.pos = n + 4)

/-- The lines of R49 about the initiator, and what they rest on: in which states its receive context is open (R193, R195,
R198). -/
def Initiator.Ok (i : Initiator) : Prop :=
  (i.state = .awaitReply ↔ i.deadline.armed = true) ∧
    (i.state = .awaitReply ∨ i.state = .receive ∨ i.state = .process → i.link.tx.stage = .done) ∧
    (i.state = .transmit ∨ i.state = .awaitReply → i.link.rx.started = false) ∧
    (i.state = .receive → i.link.rx.started = true ∧ i.link.rx.assembled = false)

/-- In which states the responder's receive context is open (R211, R216, R221), and that the command processor is only ever
given a known code (R103, R247). -/
def Responder.Ok (r : Responder) : Prop :=
  (r.state = .waitCommand ∨ r.state = .reply → r.link.rx.started = false) ∧
    (r.state = .receive → r.link.rx.started = true ∧ r.link.rx.assembled = false) ∧
    (r.state = .process → knownCommand r.link.result.control = true)

/-- The script left to run holds only script lines, so that nothing but activations and environment events moves the system
(R118, R250). -/
def OnlyScriptLines (s : State) : Prop := ∀ w ∈ s.prog, w.fmt = .script

/-- The invariants of R49, with the sizes of the state. -/
def Good (s : State) : Prop :=
  Sized s ∧ s.ini.link.tx.Ok s.par.n ∧ s.res.link.tx.Ok s.par.n ∧ s.ini.link.rx.Ok s.par.n ∧
    s.res.link.rx.Ok s.par.n ∧ s.ini.Ok ∧ s.res.Ok

end Sys2Proof.Machine
end

