-- ==== Sys2Proof/Certificates/Slice0/Obligations.lean ====
section
/-! DEFINITION. The statements about the model, for the provers. Where a statement says `∃ ret label, exec i s = .next (t.report
ret label)`, the instruction completes with exactly the next state `t`; only what the host is told of it (log 10: the returned
value and the outcome label, the model's own fields) is left open. `ResultReady` events are part of `t`. -/

open Sys2Proof Sys2Proof.Machine

/-! ## Reset -/

/-- RESET writes every piece of state of both stations, with the values of R290, which that rule marks as the spec's own decision
D21, and nothing else; the script's RESET line empties both queues as well (R118). -/
def Obligations.ResetAssignsEveryRegister : Prop :=
  ∀ s : State,
    let zero : List Byte := List.replicate s.par.n 0x00#8
    let link : Link :=
      { txPacket := { address := 0x00#8, control := 0x00#8, payload := zero }
        tx := { stage := .startFlag, cursor := 0, fcsFirst := 0x00#8, fcsSecond := 0x00#8, escPending := false,
                curByte := 0x00#8 }
        rx := { started := false, assembled := false, valid := false,
                packet := { address := 0x00#8, control := 0x00#8, payload := zero }, pos := 0, unescPending := false,
                fcsFirst := 0x00#8, fcsSecond := 0x00#8 }
        result := { control := 0x00#8, payload := zero } }
    let t : State :=
      { s with ini := { state := .prepare, link := link, deadline := { armed := false, tStart := 0, duration := 0 } }
               res := { state := .waitCommand, link := link } }
    (∃ ret label, exec .reset s = .next (t.report ret label)) ∧
      (∃ ret label, exec .scriptReset s = .next ({ t with qa := [], qb := [] }.report ret label))

/-- The values of the registers, deadline and queues in the state after reset, for the default `N = 16`: those of R50, most of
them the spec's own decision D21. That both queues are empty in it is the model's choice (log 28). -/
def Obligations.ResetStateValues : Prop :=
  let zero : List Byte := List.replicate 16 0x00#8
  let packet : Packet := { address := 0x00#8, control := 0x00#8, payload := zero }
  let tx : TxContext :=
    { stage := .startFlag, cursor := 0, fcsFirst := 0x00#8, fcsSecond := 0x00#8, escPending := false, curByte := 0x00#8 }
  let rx : RxContext :=
    { started := false, assembled := false, valid := false, packet := packet, pos := 0, unescPending := false,
      fcsFirst := 0x00#8, fcsSecond := 0x00#8 }
  State.reset.ini.state = .prepare ∧ State.reset.res.state = .waitCommand ∧
    (∀ st : Station, State.reset.tx st = tx ∧ State.reset.rx st = rx ∧ State.reset.txPacket st = packet ∧
      State.reset.result st = { control := 0x00#8, payload := zero }) ∧
    State.reset.ini.deadline = { armed := false, tStart := 0, duration := 0 } ∧
    State.reset.qa = [] ∧ State.reset.qb = [] ∧ State.reset.par.n = 16 ∧ State.reset.par.capQA = 8 ∧
    State.reset.par.capQB = 8 ∧ State.reset.par.clockW = 32

/-- The state after reset meets the invariants of R49 and the sizes of the state, and holds no script. It rests on values the model
chose: the clock at 0, the configuration inputs at zero, the queues empty (log 6, log 8, log 28). -/
def Obligations.ResetStateIsGood : Prop :=
  Good State.reset ∧ OnlyScriptLines State.reset

/-! ## Steps -/

/-- A step takes the next fetch word off the script and runs the instruction it decodes to; an ill-formed one is refused. Bytes on
the wire that are no instruction are handed to their receiver, since none traps (R102); a word of any other place that is no
instruction is refused (log 1, log 12). -/
def Obligations.StepRunsTheDecodedInstruction : Prop :=
  ∀ (s : State) (w : FetchWord) (rest : List FetchWord), s.prog = w :: rest →
    (∀ i : Instr, decode w = .ok i → i.wellFormed = true → step s = exec i { s with prog := rest }) ∧
      (∀ i : Instr, decode w = .ok i → i.wellFormed = false → step s = .refused .illFormed) ∧
      (∀ e : DecodeError, decode w = .error e → w.fmt.onWire = true →
        step s = .next (deliverAll w.st w.bytes { s with prog := rest }.quiet)) ∧
      (∀ e : DecodeError, decode w = .error e → w.fmt.onWire = false → step s = .refused (.undecodable e))

/-- With no script, a step is one activation of the reference schedule: the stations alternate, the initiator first after
reset, and the clock has advanced by an unknown amount (log 7: the free value `Config.clockAdvance`). -/
def Obligations.FreeRunAlternatesTheStations : Prop :=
  State.reset.turn = .initiator ∧
    ∀ s : State, s.prog = [] →
      let now : State :=
        { s with clock := (s.clock + Config.clockAdvance s.free) % 2 ^ s.par.clockW, free := s.free + 1 }
      (s.turn = .initiator → step s = exec .scriptStepI { now with turn := .responder }) ∧
        (s.turn = .responder → step s = exec .scriptStepR { now with turn := .initiator })

/-! ## Encodings -/

/-- The wire bytes, pairs, address bytes, control bytes and enumeration numbers decode to the rows the spec gives them, and
the unused ones are refused (R93, R95 to R97, R102, R105; the numbering of the enumerations is the spec's own decision D22).
At which row a bare word of the table is read, where several share its bits, is the model's choice (log 2); the four bare
words here are those of FLAG, ESCAPE and the two escape pairs, which no other row has. -/
def Obligations.SpecEncodingsDecode : Prop :=
  (∀ (st : Station) (b : Byte), decode ⟨.wireByte, st, [b]⟩ =
      .ok (if b = 0x7D#8 then .escape st else if b = 0x7E#8 then .flag st else .data st b)) ∧
    (∀ (st : Station) (x : Byte), decode ⟨.afterEscape, st, [x]⟩ = .ok (.escaped st x)) ∧
    (∀ (st : Station) (x : Byte), decode ⟨.wirePair, st, [0x7D#8, x]⟩ =
      .ok (if x = 0x5E#8 then .escFlag st else if x = 0x5D#8 then .escEscape st else .escOther st x)) ∧
    (∀ (st : Station) (e x : Byte), e ≠ 0x7D#8 → decode ⟨.wirePair, st, [e, x]⟩ = .error .notAnEscapePair) ∧
    (∀ (st : Station) (a : Byte), decode ⟨.addressByte, st, [a]⟩ =
      .ok (if a = 0x01#8 then .addrInitiator st else if a = 0x02#8 then .addrResponder st else .addrOther st a)) ∧
    (∀ (st : Station) (c : Byte), decode ⟨.controlByte, st, [c]⟩ =
      .ok (if c = 0x01#8 then .cmdComplement st else if c = 0x02#8 then .cmdReverse st else .cmdReserved st c)) ∧
    (∀ (st : Station) (v : Byte) (i : Instr),
      (v, i) ∈ [(0#8, Instr.stageStartFlag st), (1#8, .stageAddress st), (2#8, .stageControl st), (3#8, .stagePayload st),
        (4#8, .stageFcsHigh st), (5#8, .stageFcsLow st), (6#8, .stageEndFlag st), (7#8, .stageDone st)] →
      decode ⟨.enumStage, st, [v]⟩ = .ok i) ∧
    (∀ (st : Station) (v : Byte) (i : Instr),
      (v, i) ∈ [(0#8, Instr.istatePrepare), (1#8, .istateTransmit), (2#8, .istateAwaitReply), (3#8, .istateReceive),
        (4#8, .istateProcess)] → decode ⟨.enumIState, st, [v]⟩ = .ok i) ∧
    (∀ (st : Station) (v : Byte) (i : Instr),
      (v, i) ∈ [(0#8, Instr.rstateWaitCommand), (1#8, .rstateReceive), (2#8, .rstateProcess), (3#8, .rstateReply)] →
      decode ⟨.enumRState, st, [v]⟩ = .ok i) ∧
    (∀ (st : Station) (v : Byte), 8 ≤ v.toNat → decode ⟨.enumStage, st, [v]⟩ = .error .unusedValue) ∧
    (∀ (st : Station) (v : Byte), 5 ≤ v.toNat → decode ⟨.enumIState, st, [v]⟩ = .error .unusedValue) ∧
    (∀ (st : Station) (v : Byte), 4 ≤ v.toNat → decode ⟨.enumRState, st, [v]⟩ = .error .unusedValue) ∧
    decodeTableWord 8 0x7E = some (.flag .initiator) ∧ decodeTableWord 8 0x7D = some (.escape .initiator) ∧
    decodeTableWord 16 0x7D5E = some (.escFlag .initiator) ∧ decodeTableWord 16 0x7D5D = some (.escEscape .initiator)

/-- Decoding the word of a well-formed instruction gives the instruction back, with every operand: for every row of the
opcode table, whole frames (R90, R93, R99) among them. -/
def Obligations.DecodeOfEncodeIsTheInstruction : Prop :=
  ∀ i : Instr, i.wellFormed = true → decode (encode i) = .ok i

/-- R151: in the wire bytes of any frame, FLAG stands at the first and the last place only, and every ESCAPE is followed at
once by 0x5E or 0x5D; and, R101, a frame of `N` payload bytes has `N + 6` to `2N + 10` wire bytes. -/
def Obligations.FlagsOnlyAtFrameEnds : Prop :=
  ∀ (a c : Byte) (p : List Byte),
    let w := frameBytes a c p
    (∀ k : Nat, w[k]? = some 0x7E#8 → k = 0 ∨ k + 1 = w.length) ∧
      w[0]? = some 0x7E#8 ∧ w[w.length - 1]? = some 0x7E#8 ∧
      (∀ k : Nat, w[k]? = some 0x7D#8 → w[k + 1]? = some 0x5E#8 ∨ w[k + 1]? = some 0x5D#8) ∧
      p.length + 6 ≤ w.length ∧ w.length ≤ 2 * p.length + 10

/-! ## The FCS engine -/

/-- R137: the worked example, iteration by iteration, and its two wire bytes. Every value of it rests on how a byte enters the
register, which is the spec's step from general knowledge (G1 of 93_implementation_defined.md; PRESUMED, log 19). -/
def Obligations.CrcWorkedExample : Prop :=
  List.map (fun k => crcShift^[k] 0xFEFF#16) [1, 2, 3, 4, 5, 6, 7, 8] =
      [0xEDDF#16, 0xCB9F#16, 0x871F#16, 0x1E1F#16, 0x3C3E#16, 0x787C#16, 0xF0F8#16, 0xF1D1#16] ∧
    List.map (fun k => crcShift^[k] 0xF3D1#16) [1, 2, 3, 4, 5, 6, 7, 8] =
      [0xF783#16, 0xFF27#16, 0xEE6F#16, 0xCCFF#16, 0x89DF#16, 0x039F#16, 0x073E#16, 0x0E7C#16] ∧
    crc16 [0x01#8, 0x02#8] = 0xF183#16 ∧
    fcsFirst (crc16 [0x01#8, 0x02#8]) = 0x83#8 ∧ fcsSecond (crc16 [0x01#8, 0x02#8]) = 0xF1#8

/-- R131: CRC16 returns the value of the algorithm, and changes nothing. How a byte enters the register is the spec's step from
general knowledge (G1; PRESUMED, log 19). -/
def Obligations.CrcFollowsTheAlgorithm : Prop :=
  ∀ (s : State) (bytes : List Byte),
    let shift : Word → Word := fun r => if r.getMsbD 0 then (r <<< 1) ^^^ 0x1021#16 else r <<< 1
    let reg : Word := bytes.foldl (fun (r : Word) (b : Byte) => shift^[8] (r ^^^ (b.setWidth 16 <<< 8))) 0xFFFF#16
    exec (.crc16 bytes) s = .next (s.report (.word (reg ^^^ 0xFFFF#16)) none)

/-- A change of exactly one byte of its input changes the CRC: from R131, the register's shift loses nothing. How a byte enters the
register is the spec's step from general knowledge (G1; PRESUMED, log 19). -/
def Obligations.CrcDetectsOneChangedByte : Prop :=
  ∀ (before after : List Byte) (b b' : Byte), b ≠ b' → crc16 (before ++ b :: after) ≠ crc16 (before ++ b' :: after)

/-- FCS returns the two check bytes of a frame's content in wire order, low-order byte of the CRC first (R64, R99, R133), and
changes nothing. -/
def Obligations.FcsIsLowOrderByteFirst : Prop :=
  ∀ (s : State) (a c : Byte) (p : List Byte),
    exec (.fcs a c p) s =
      .next (s.report (.bytes [(crc16 ([a, c] ++ p)).extractLsb' 0 8, (crc16 ([a, c] ++ p)).extractLsb' 8 8]) none)

/-! ## The external collaborators -/

/-- R232, R233: IsFull and IsEmpty answer exactly that the queue holds `C` bytes, or none, and change nothing. -/
def Obligations.QueueTestsAnswer : Prop :=
  ∀ (s : State) (q : Queue), (s.queue q).length ≤ s.capacity q →
    exec (.qIsFull q) s = .next (s.report (.bool (decide ((s.queue q).length = s.capacity q))) none) ∧
      exec (.qIsEmpty q) s = .next (s.report (.bool (decide ((s.queue q).length = 0))) none)

/-- WriteByte and PUSH append at the tail where there is room and are refused where there is not; ReadByte and POP remove
and return the oldest byte and are refused on an empty queue; Reset empties (R61, R118, R234 to R236, U1, U2). -/
def Obligations.QueueOperationsFromOutside : Prop :=
  ∀ (s : State) (q : Queue),
    (∀ b : Byte, (s.queue q).length + 1 ≤ s.capacity q →
        ∃ ret label, exec (.qWriteByte q b) s = .next ((s.setQueue q (s.queue q ++ [b])).report ret label)) ∧
      (∀ b : Byte, s.capacity q < (s.queue q).length + 1 → exec (.qWriteByte q b) s = .refused .queueFull) ∧
      (∀ bs : List Byte, (s.queue q).length + bs.length ≤ s.capacity q →
        ∃ ret label, exec (.scriptPush q bs) s = .next ((s.setQueue q (s.queue q ++ bs)).report ret label)) ∧
      (∀ bs : List Byte, s.capacity q < (s.queue q).length + bs.length →
        exec (.scriptPush q bs) s = .refused .queueFull) ∧
      (∀ (b : Byte) (rest : List Byte), s.queue q = b :: rest →
        exec (.qReadByte q) s = .next ((s.setQueue q rest).report (.byte b) none) ∧
          exec (.scriptPop q) s = .next ((s.setQueue q rest).report (.byte b) none)) ∧
      (s.queue q = [] → exec (.qReadByte q) s = .refused .queueEmpty ∧ exec (.scriptPop q) s = .refused .queueEmpty) ∧
      (∃ ret label, exec (.qReset q) s = .next ((s.setQueue q []).report ret label))

/-- R241, with R239 and R240: Now reads the clock, SetDeadline returns the start time and the duration, IsExpired compares the
unsigned difference modulo `2^CLOCK_W`; none of them changes anything. The pair of start and duration, and the `>=` of the
test, are the spec's own decision D20. That a duration is taken modulo `2^CLOCK_W` is the model's inference (log 20), and that a
deadline which is not armed is tested by its fields like any other is another (log 23). How a deadline whose fields are wider than
`CLOCK_W` bits is tested is the model's choice (log 35). -/
def Obligations.TimerOperationsAnswer : Prop :=
  ∀ s : State,
    exec .timerNow s = .next (s.report (.time s.clock) none) ∧
      (∀ d : Nat,
        exec (.timerSetDeadline d) s =
          .next (s.report (.deadline { armed := true, tStart := s.clock, duration := d % 2 ^ s.par.clockW }) none)) ∧
      (∀ dl : Deadline,
        exec (.timerIsExpired dl) s =
          .next (s.report
            (.bool (decide ((dl.duration : Int) ≤ ((s.clock : Int) - (dl.tStart : Int)) % (2 : Int) ^ s.par.clockW)))
            none))

/-- R246, with R245 and R247: the command processor returns as many bytes as it is given; command 0x01 complements every byte,
command 0x02 reverses their order, any other command passes them through; nothing changes. For an input that is not `N` bytes
long this is the model's choice (log 22). -/
def Obligations.CommandProcessorAnswers : Prop :=
  ∀ (s : State) (p : List Byte),
    (∀ c : Byte, ∃ out : List Byte,
        exec (.cmdProcess c p) s = .next (s.report (.bytes out) none) ∧ out.length = p.length ∧
          (c = 0x01#8 → ∀ i < p.length, out[i]? = (p[i]?).map (fun b => ~~~b)) ∧
          (c = 0x02#8 → ∀ i < p.length, out[i]? = p[p.length - 1 - i]?) ∧
          (c ≠ 0x01#8 → c ≠ 0x02#8 → out = p)) ∧
      exec (.cmdProcessComplement p) s = exec (.cmdProcess 0x01#8 p) s ∧
      exec (.cmdProcessReverse p) s = exec (.cmdProcess 0x02#8 p) s ∧
      (∀ c : Byte, exec (.cmdProcessUnknown c p) s = .next (s.report (.bytes p) none)) ∧
      (∃ out, exec (.cmdProcessComplement p) s = .next (s.report (.bytes out) none)) ∧
      (∃ out, exec (.cmdProcessReverse p) s = .next (s.report (.bytes out) none))

/-- Each enumeration row and EXPECT change nothing, and tell the host whether the register holds the row's value, or whether
the predicate holds: the model's reading of rows that give no effect (R105, R118; log 15, log 16). -/
def Obligations.ObservationsChangeNothing : Prop :=
  ∀ s : State,
    (∀ (st : Station) (i : Instr) (x : Stage),
        (i, x) ∈ [(Instr.stageStartFlag st, Stage.startFlag), (.stageAddress st, .address), (.stageControl st, .control),
          (.stagePayload st, .payload), (.stageFcsHigh st, .fcsHigh), (.stageFcsLow st, .fcsLow),
          (.stageEndFlag st, .endFlag), (.stageDone st, .done)] →
        exec i s = .next (s.report (.bool (decide ((s.tx st).stage = x))) none)) ∧
      (∀ (i : Instr) (x : IState),
        (i, x) ∈ [(Instr.istatePrepare, IState.prepare), (.istateTransmit, .transmit), (.istateAwaitReply, .awaitReply),
          (.istateReceive, .receive), (.istateProcess, .process)] →
        exec i s = .next (s.report (.bool (decide (s.ini.state = x))) none)) ∧
      (∀ (i : Instr) (x : RState),
        (i, x) ∈ [(Instr.rstateWaitCommand, RState.waitCommand), (.rstateReceive, .receive), (.rstateProcess, .process),
          (.rstateReply, .reply)] →
        exec i s = .next (s.report (.bool (decide (s.res.state = x))) none)) ∧
      (∀ p : Pred, exec (.scriptExpect p) s = .next (s.report (.bool (holds s p)) none))

/-! ## Script lines of the environment -/

/-- The lines CFG, CLOCK and TICK set the configuration inputs and the clock, and nothing else (R118, R239, R45); a payload of `N`
bytes is the input as it stands. What the input is after a payload of another length, where no PARAM line fixes that length, is the
model's choice (log 34), and so is what a CLOCK line does with a value that has more than `CLOCK_W` bits (log 31). -/
def Obligations.EnvironmentLinesSetInputsAndClock : Prop :=
  ∀ s : State,
    (∀ (cmd : Byte) (p : List Byte), ∃ t ret label, exec (.scriptCfg cmd p) s = .next t ∧
        t = { s with cfg := { command := cmd, payload := p } }.report ret label ∧ t.cfgPayload.length = s.par.n ∧
        (p.length = s.par.n → t.cfgPayload = p)) ∧
      (∀ t : Nat,
        ∃ ret label, exec (.scriptClock t) s = .next ({ s with clock := t % 2 ^ s.par.clockW }.report ret label)) ∧
      (∀ d : Nat,
        ∃ ret label, exec (.scriptTick d) s =
          .next ({ s with clock := (s.clock + d) % 2 ^ s.par.clockW }.report ret label))

/-- The line PARAM fixes a parameter (R8, R118): `N = 0` and `C = 0` are refused (U13). What a change of `N`, `C` or `CLOCK_W`
does to the rest of the state is the model's choice (log 4). The order of the start-up acts does not matter (R295): PARAM and CFG
lines, each after or before a line for another parameter, RESET, the emptying of a queue, CFG, and a CLOCK line whose value fits the
clock; a capacity below what a queue holds is refused until the queue is emptied (U15, log 4). -/
def Obligations.ParamLineFixesAParameter : Prop :=
  ∀ s : State,
    exec (.scriptParam .n 0) s = .refused .badParameter ∧ exec (.scriptParam .c 0) s = .refused .badParameter ∧
      (∀ v : Nat, 1 ≤ v → ∃ t, exec (.scriptParam .n v) s = .next t ∧ t.par = { s.par with n := v } ∧
        t.qa = s.qa ∧ t.qb = s.qb ∧ t.clock = s.clock ∧ t.cfg = s.cfg ∧ (v = s.par.n → t.ini = s.ini ∧ t.res = s.res) ∧
        (v ≠ s.par.n → t.ini = Initiator.reset v ∧ t.res = Responder.reset v)) ∧
      (∀ v : Nat, 1 ≤ v → s.qa.length ≤ v → s.qb.length ≤ v → ∃ ret label, exec (.scriptParam .c v) s =
        .next ({ s with par := { s.par with capQA := v, capQB := v } }.report ret label)) ∧
      (∀ v : Nat, v < s.qa.length ∨ v < s.qb.length → exec (.scriptParam .c v) s = .refused .badParameter) ∧
      (∀ v : Nat, ∃ ret label, exec (.scriptParam .replyTimeoutMs v) s =
        .next ({ s with par := { s.par with replyTimeoutMs := v } }.report ret label)) ∧
      (∀ v : Nat, ∃ t, exec (.scriptParam .clockW v) s = .next t ∧ t.par = { s.par with clockW := v } ∧
        t.clock = s.clock % 2 ^ v ∧ t.ini.link = s.ini.link ∧ t.ini.state = s.ini.state ∧ t.res = s.res ∧ t.qa = s.qa ∧
        t.qb = s.qb) ∧
      (∀ act other : Instr,
        let startUp : Prop := other = .reset ∨ other = .scriptReset ∨ (∃ q, other = .qReset q) ∨
          ∃ t : Nat, t < 2 ^ s.par.clockW ∧ other = .scriptClock t
        ((∃ cmd p, act = .scriptCfg cmd p) ∧ startUp) ∨
          (∃ name v, act = .scriptParam name v ∧ (name = .c → s.qa.length ≤ v ∧ s.qb.length ≤ v) ∧
            (startUp ∨ (∃ cmd p, other = .scriptCfg cmd p) ∨ ∃ name' v', name' ≠ name ∧ other = .scriptParam name' v')) →
        andThen (exec act s) (exec other) = andThen (exec other s) (exec act))

/-- The line LOOP puts `k` copies of the lines it encloses in front of the rest of the script, and changes nothing else (R118);
one that encloses more lines than are left is refused (log 26). -/
def Obligations.LoopRepeatsItsLines : Prop :=
  ∀ (s : State) (k : Nat),
    (∀ body rest : List FetchWord, s.prog = body ++ rest → ∃ ret label, exec (.scriptLoop k body.length) s =
        .next ({ s with prog := (List.replicate k body).flatten ++ rest }.report ret label)) ∧
      (∀ lines : Nat, s.prog.length < lines → exec (.scriptLoop k lines) s = .refused .loopBody)

/-! ## The receive codec -/

/-- A wire byte is taken as the receiver's state says, whichever row names it (R100; log 12): ESCAPED and DATA with one byte do
the same, FLAG is the byte 0x7E and ESCAPE the byte 0x7D; each completes in every state and touches only the receive context
and the result buffer of its station. -/
def Obligations.WireByteRowsTakeTheirByte : Prop :=
  ∀ (s : State) (st : Station) (b : Byte),
    exec (.escaped st b) s = exec (.data st b) s ∧ exec (.flag st) s = exec (.data st 0x7E#8) s ∧
      exec (.escape st) s = exec (.data st 0x7D#8) s ∧
      ∃ rx result ret label, exec (.data st b) s = .next (((s.setRx st rx).setResult st result).report ret label)

/-- R163: with an unescape pending the byte, whatever it is, is a data byte XOR 0x20: handed to the receiver as any wire-byte
row, or taken from the queue by DECODESTEP.UNESCAPE. That a wire-byte row hands its byte to the receiver past the queue is the
model's choice (log 12), and that this happens also while no frame is open is the spec's own decision D12 (R170). -/
def Obligations.ByteAfterEscapeIsUnescaped : Prop :=
  ∀ (s : State) (st : Station) (b : Byte), (s.rx st).assembled = false → (s.rx st).unescPending = true →
    let rx := routeByte s.par.n { s.rx st with unescPending := false } (b ^^^ 0x20#8)
    (∀ i : Instr, i ∈ [Instr.data st b, .escaped st b] ++ (if b = 0x7E#8 then [Instr.flag st] else []) ++
          (if b = 0x7D#8 then [Instr.escape st] else []) →
        ∃ ret label, exec i s = .next ((s.setRx st rx).report ret label)) ∧
      (∀ rest : List Byte, s.queue st.inQueue = b :: rest →
        ∃ ret label, exec (.decodeUnescape st) s =
          .next (((s.setQueue st.inQueue rest).setRx st rx).report ret label))

/-- R164, R166: with no unescape pending, ESCAPE sets the flag and nothing else, and any byte other than ESCAPE and FLAG is
routed; handed to the receiver, or taken from the queue by the arm of `DecodeStep`. That a wire-byte row hands its byte to the
receiver past the queue is the model's choice (log 12), and that this happens also while no frame is open is the spec's own
decision D12 (R170). -/
def Obligations.EscapeAndDataBytes : Prop :=
  ∀ (s : State) (st : Station), (s.rx st).assembled = false → (s.rx st).unescPending = false →
    (∃ ret label, exec (.escape st) s =
        .next ((s.setRx st { s.rx st with unescPending := true }).report ret label)) ∧
      (∀ rest : List Byte, s.queue st.inQueue = 0x7D#8 :: rest → ∃ ret label, exec (.decodeEscape st) s =
        .next (((s.setQueue st.inQueue rest).setRx st { s.rx st with unescPending := true }).report ret label)) ∧
      (∀ d : Byte, d ≠ 0x7E#8 → d ≠ 0x7D#8 →
        (∃ ret label, exec (.data st d) s = .next ((s.setRx st (routeByte s.par.n (s.rx st) d)).report ret label)) ∧
        (∀ rest : List Byte, s.queue st.inQueue = d :: rest → ∃ ret label, exec (.decodeData st) s =
          .next (((s.setQueue st.inQueue rest).setRx st (routeByte s.par.n (s.rx st) d)).report ret label)))

/-- R165: with no unescape pending, FLAG opens a frame where none is open, and closes one and validates it in the same call
where one is; from the queue, and from the wire, where a row hands its byte to the receiver past the queue (the model's choice,
log 12). -/
def Obligations.FlagOpensAndCloses : Prop :=
  ∀ (s : State) (st : Station), (s.rx st).assembled = false → (s.rx st).unescPending = false →
    ((s.rx st).started = false →
        (∃ ret label, exec (.flag st) s =
          .next ((s.setRx st { s.rx st with pos := 0, started := true }).report ret label)) ∧
        (∀ rest : List Byte, s.queue st.inQueue = 0x7E#8 :: rest → ∃ ret label, exec (.decodeFlagOpen st) s =
          .next (((s.setQueue st.inQueue rest).setRx st { s.rx st with pos := 0, started := true }).report ret label))) ∧
      ((s.rx st).started = true →
        (∃ t, exec (.flag st) s = .next t ∧
          exec (.validateFrame st) (s.setRx st { s.rx st with assembled := true }) = .next t) ∧
        (∀ rest : List Byte, s.queue st.inQueue = 0x7E#8 :: rest → ∃ t ret,
          exec (.decodeFlagClose st) s = .next (t.report ret t.host.label) ∧
            exec (.validateFrame st) ((s.setQueue st.inQueue rest).setRx st { s.rx st with assembled := true }) =
              .next t))

/-- R161, R162: a closed context takes nothing from the queue or from the wire, and an empty queue leaves everything as it is
and raises Backpressure. That a closed context is inert is the spec's own decision D10; that wire rows and FRAME hand their bytes
to the receiver past the queue is the model's choice (log 12, log 13). -/
def Obligations.NothingToDecode : Prop :=
  ∀ (s : State) (st : Station),
    ((s.rx st).assembled = true → ∀ i : Instr,
        (i ∈ [Instr.decodeStalled st, .flag st, .escape st, .escFlag st, .escEscape st] ∨
          ∃ (a c : Byte) (p : List Byte), i ∈ [Instr.data st a, .escaped st a, .escOther st a, .frame st a c p]) →
        ∃ ret label, exec i s = .next (s.report ret label)) ∧
      ((s.rx st).assembled = false → s.queue st.inQueue = [] →
        ∃ ret, exec (.decodeEmpty st) s = .next (s.report ret (some .backpressure)))

/-- R168, R169: Route stores a data byte by the position counter, which then counts up and stays at `N + 5`; a byte at position
`N + 4` or above is stored nowhere. The saturating count and the dropping are the spec's own decision D13 (R35, R169). -/
def Obligations.RouteStoresByPosition : Prop :=
  ∀ (s : State) (st : Station) (d : Byte),
    let n := s.par.n
    let rx := s.rx st
    let goes : RxContext → Prop := fun x => ∃ ret label, exec (.route st d) s = .next ((s.setRx st x).report ret label)
    (rx.pos = 0 → goes { rx with packet := { rx.packet with address := d }, pos := 1 }) ∧
      (rx.pos = 1 → goes { rx with packet := { rx.packet with control := d }, pos := 2 }) ∧
      (2 ≤ rx.pos → rx.pos ≤ n + 1 → goes
        { rx with packet := { rx.packet with payload := rx.packet.payload.set (rx.pos - 2) d }, pos := rx.pos + 1 }) ∧
      (1 ≤ n → rx.pos = n + 2 → goes { rx with fcsFirst := d, pos := n + 3 }) ∧
      (1 ≤ n → rx.pos = n + 3 → goes { rx with fcsSecond := d, pos := n + 4 }) ∧
      (rx.pos = n + 4 → goes { rx with pos := n + 5 }) ∧
      (rx.pos = n + 5 → goes rx)

/-- The rows of the position map, the address bytes and the control bytes route their byte exactly as ROUTE does, in every state
(R71, R96, R97, R168, R169). Which of them the counter stands at is told to the host: whether it is the row's position, and
at its position whether an address is the station's own, or which command a control byte stands for. That such a row is a call
of `Route`, and what the host is told, is the model's choice (log 11, log 14). -/
def Obligations.FieldRowsRouteAtTheirPosition : Prop :=
  ∀ (s : State) (st : Station) (d : Byte),
    let routed : State := s.setRx st (routeByte s.par.n (s.rx st) d)
    let row : Instr → Ret → Prop := fun i told => exec i s = .next (routed.report told none)
    let position : Instr → Prop → Prop := fun i here => ∃ told : Bool, (told = true ↔ here) ∧ row i (.bool told)
    let address : Instr → Prop := fun i =>
      ((s.rx st).pos = 0 → row i (.bool (decide (d = match st with | .initiator => 0x01#8 | .responder => 0x02#8)))) ∧
        ((s.rx st).pos ≠ 0 → row i .nothing)
    let control : Instr → Prop := fun i =>
      ((s.rx st).pos = 1 →
        row i (.command (if d = 0x01#8 then .complement else if d = 0x02#8 then .reverse else .unknown d))) ∧
        ((s.rx st).pos ≠ 1 → row i .nothing)
    position (.posAddress st d) ((s.rx st).pos = 0) ∧
      position (.posControl st d) ((s.rx st).pos = 1) ∧
      position (.posPayload st d) (2 ≤ (s.rx st).pos ∧ (s.rx st).pos ≤ s.par.n + 1) ∧
      position (.posFcsFirst st d) ((s.rx st).pos = s.par.n + 2) ∧
      position (.posFcsSecond st d) ((s.rx st).pos = s.par.n + 3) ∧
      position (.posOverflow st d) (s.par.n + 4 ≤ (s.rx st).pos) ∧
      address (.addrOther st d) ∧ control (.cmdReserved st d) ∧
      (d = 0x01#8 → address (.addrInitiator st) ∧ control (.cmdComplement st)) ∧
      (d = 0x02#8 → address (.addrResponder st) ∧ control (.cmdReverse st))

/-- An escape pair handed to an open receiver is one data byte, the second byte XOR 0x20, whatever that byte is: 0x7D 0x5E is
0x7E, 0x7D 0x5D is 0x7D, and any other pair is accepted too (R93, R102, R177). That a pair's row hands its bytes to the receiver
past the queue is the model's choice (log 12). -/
def Obligations.EscapePairIsOneDataByte : Prop :=
  ∀ (s : State) (st : Station), (s.rx st).assembled = false → (s.rx st).unescPending = false →
    let routed : Byte → State := fun d => s.setRx st (routeByte s.par.n (s.rx st) d)
    (∃ ret label, exec (.escFlag st) s = .next ((routed 0x7E#8).report ret label)) ∧
      (∃ ret label, exec (.escEscape st) s = .next ((routed 0x7D#8).report ret label)) ∧
      (∀ x : Byte, ∃ ret label, exec (.escOther st x) s = .next ((routed (x ^^^ 0x20#8)).report ret label))

/-- R172: ValidateFrame sets `rx.valid` and copies control and payload to the result buffer when all five requirements hold,
once; on a failure it writes nothing and raises the label of the first requirement that fails, in the order unassembled,
length, address, command, checksum. That order, and that the label is the first failure's, are the spec's own decision D14
(R173, R266); that the host is told one label is the model's reading (log 25). -/
def Obligations.ValidateFrameRequiresAllFive : Prop :=
  ∀ (s : State) (st : Station),
    let rx := s.rx st
    let expected : Byte := match st with | .initiator => 0x01#8 | .responder => 0x02#8
    let known : Prop := rx.packet.control = 0x01#8 ∨ rx.packet.control = 0x02#8
    let crc := crc16 ([rx.packet.address, rx.packet.control] ++ rx.packet.payload)
    let sameFcs : Prop := rx.fcsFirst = crc.extractLsb' 0 8 ∧ rx.fcsSecond = crc.extractLsb' 8 8
    let raises : Condition → Prop := fun c => ∃ ret, exec (.validateFrame st) s = .next (s.report ret (some c))
    (rx.assembled = false → raises .frameIncomplete) ∧
      (rx.assembled = true → rx.pos ≠ s.par.n + 4 → raises .frameLengthError) ∧
      (rx.assembled = true → rx.pos = s.par.n + 4 → rx.packet.address ≠ expected → raises .addressMismatch) ∧
      (rx.assembled = true → rx.pos = s.par.n + 4 → rx.packet.address = expected → ¬known → raises .unknownCommand) ∧
      (rx.assembled = true → rx.pos = s.par.n + 4 → rx.packet.address = expected → known → ¬sameFcs →
        raises .checksumMismatch) ∧
      (rx.assembled = true → rx.pos = s.par.n + 4 → rx.packet.address = expected → known → sameFcs → rx.valid = false →
        ∃ ret, exec (.validateFrame st) s =
          .next (((s.setRx st { rx with valid := true }).setResult st
            { control := rx.packet.control, payload := rx.packet.payload }).report ret none)) ∧
      (rx.assembled = true → rx.pos = s.par.n + 4 → rx.packet.address = expected → known → sameFcs → rx.valid = true →
        ∃ ret, exec (.validateFrame st) s = .next (s.report ret none))

/-- R106, R149, R167: a row of `EncodeStep`, or of `DecodeStep`, is a call of the operation, in every state: it does what the arm
the state selects does, and exactly one row of each operation is told that it is the one selected, by the condition the opcode
table gives it. That the row of another arm runs the selected one, and what the host is told, is the model's choice (log 11). -/
def Obligations.ExactlyOneCodecArm : Prop :=
  ∀ (s : State) (st : Station),
    let tx := s.tx st
    let rx := s.rx st
    let full : Prop := s.capacity st.outQueue ≤ (s.queue st.outQueue).length
    let sends : Stage → Prop := fun x => tx.stage = x ∧ ¬full ∧ tx.escPending = false
    let takes : (Byte → Prop) → Prop := fun p => rx.assembled = false ∧ ∃ b, (s.queue st.inQueue).head? = some b ∧ p b
    let encodeRows : List (Instr × Prop) :=
      [(.encodeDone st, tx.stage = .done), (.encodeBackpressure st, tx.stage ≠ .done ∧ full),
        (.encodeEscape2 st, tx.stage ≠ .done ∧ ¬full ∧ tx.escPending = true), (.encodeStartFlag st, sends .startFlag),
        (.encodeEndFlag st, sends .endFlag), (.encodeAddress st, sends .address), (.encodeControl st, sends .control),
        (.encodePayload st, sends .payload), (.encodeFcsHigh st, sends .fcsHigh), (.encodeFcsLow st, sends .fcsLow)]
    let decodeRows : List (Instr × Prop) :=
      [(.decodeStalled st, rx.assembled = true), (.decodeEmpty st, rx.assembled = false ∧ s.queue st.inQueue = []),
        (.decodeUnescape st, takes fun _ => rx.unescPending = true),
        (.decodeEscape st, takes fun b => rx.unescPending = false ∧ b = 0x7D#8),
        (.decodeFlagOpen st, takes fun b => rx.unescPending = false ∧ b = 0x7E#8 ∧ rx.started = false),
        (.decodeFlagClose st, takes fun b => rx.unescPending = false ∧ b = 0x7E#8 ∧ rx.started = true),
        (.decodeData st, takes fun b => rx.unescPending = false ∧ b ≠ 0x7D#8 ∧ b ≠ 0x7E#8)]
    (∀ row ∈ encodeRows, ∃ named : Bool, (named = true ↔ row.2) ∧
        (∀ e, encodeStep st s = .next e → exec row.1 s = .next (e.report (.bool named) e.host.label)) ∧
        (∀ f, encodeStep st s = .fault f → exec row.1 s = .fault f)) ∧
      (∃ row ∈ encodeRows, row.2 ∧ ∀ other ∈ encodeRows, other.2 → other.1 = row.1) ∧
      (∀ row ∈ decodeRows, ∃ named : Bool, (named = true ↔ row.2) ∧
        exec row.1 s = .next ((decodeStep st s).report (.bool named) (decodeStep st s).host.label)) ∧
      (∃ row ∈ decodeRows, row.2 ∧ ∀ other ∈ decodeRows, other.2 → other.1 = row.1)

/-! ## Whole frames -/

/-- R176: the wire bytes of a frame with a station's own address, a known command and `N` payload bytes, handed in order to a
receive context at RxInit, leave it assembled and valid, with the control and the payload in the result buffer, and
nothing else changed. That the FRAME row is its wire bytes handed to the receiver past the queue is the model's choice (log 12,
log 13). -/
def Obligations.DecodeOfEncodedFrameIsThePayload : Prop :=
  ∀ (s : State) (st : Station) (c : Byte) (p : List Byte),
    1 ≤ s.par.n → p.length = s.par.n → c = 0x01#8 ∨ c = 0x02#8 → s.rx st = rxInit s.par.n →
    let a : Byte := match st with | .initiator => 0x01#8 | .responder => 0x02#8
    let crc := crc16 ([a, c] ++ p)
    ∃ ret, exec (.frame st a c p) s =
      .next (((s.setRx st
        { started := true, assembled := true, valid := true, packet := { address := a, control := c, payload := p },
          pos := s.par.n + 4, unescPending := false, fcsFirst := crc.extractLsb' 0 8,
          fcsSecond := crc.extractLsb' 8 8 }).setResult st { control := c, payload := p }).report ret none)

/-- A whole frame handed to a receive context at RxInit is always closed by its last flag, and is valid exactly when it has the
station's own address, a known command and `N` payload bytes; an invalid one leaves the result buffer as it was (R172,
R174, R175, and S4 of 95_test_vectors.md). That the FRAME row is its wire bytes handed to the receiver past the queue is the
model's choice (log 12, log 13). -/
def Obligations.FrameIsValidExactlyWhenAcceptable : Prop :=
  ∀ (s : State) (st : Station) (a c : Byte) (p : List Byte), 1 ≤ s.par.n → s.rx st = rxInit s.par.n →
    ∃ t, exec (.frame st a c p) s = .next t ∧ (t.rx st).started = true ∧ (t.rx st).assembled = true ∧
      ((t.rx st).valid = true ↔ a = st.address ∧ (c = 0x01#8 ∨ c = 0x02#8) ∧ p.length = s.par.n) ∧
      ((t.rx st).valid = false → t.result st = s.result st)

/-- FRAME completes from every state, REQUEST and REPLY are the frames of R107 with the configured request and with the answer
to the request in `R.result`, and none of them touches anything but the receive context and the result buffer of the station
that consumes it. That these rows are wire bytes handed to a receiver is the model's choice (log 13); that a reply carries the
request's control byte is the spec's own decision D17, and what the input payload is where other than `N` bytes are driven is the
model's choice (log 34). -/
def Obligations.FramesTouchOnlyTheirReceiver : Prop :=
  ∀ s : State,
    (∀ (st : Station) (a c : Byte) (p : List Byte), ∃ rx result ret label, exec (.frame st a c p) s =
        .next (((s.setRx st rx).setResult st result).report ret label)) ∧
      exec .request s = exec (.frame .responder 0x02#8 s.cfg.command s.cfgPayload) s ∧
      (∃ t, exec .request s = .next t) ∧
      (∀ reply : List Byte,
        exec (.cmdProcess s.res.link.result.control s.res.link.result.payload) s = .next (s.report (.bytes reply) none) →
        exec .reply s = exec (.frame .initiator 0x01#8 s.res.link.result.control reply) s) ∧
      (∃ t, exec .reply s = .next t)

/-! ## The transmit codec -/

/-- R141, R142: a Done context, and a full queue, leave everything as it is; the first raises nothing, the second Backpressure.
What the host is told beside the label is the model's choice (log 11). -/
def Obligations.EncodeStepNoOps : Prop :=
  ∀ (s : State) (st : Station),
    ((s.tx st).stage = .done → ∃ ret, exec (.encodeDone st) s = .next (s.report ret none)) ∧
      ((s.tx st).stage ≠ .done → s.capacity st.outQueue ≤ (s.queue st.outQueue).length →
        ∃ ret, exec (.encodeBackpressure st) s = .next (s.report ret (some .backpressure)))

/-- R143, R144: the opening and the closing flag are written literally, and the stage moves on in the same call; that Done is
reached in the call that writes the closing flag is the spec's own decision D5. -/
def Obligations.FlagsAreSentLiterally : Prop :=
  ∀ (s : State) (st : Station), (s.queue st.outQueue).length < s.capacity st.outQueue →
    (s.tx st).escPending = false →
    let sent : Stage → State := fun next =>
      (s.setQueue st.outQueue (s.queue st.outQueue ++ [0x7E#8])).setTx st
        { s.tx st with curByte := 0x7E#8, stage := next }
    ((s.tx st).stage = .startFlag → ∃ ret label, exec (.encodeStartFlag st) s = .next ((sent .address).report ret label)) ∧
      ((s.tx st).stage = .endFlag → ∃ ret label, exec (.encodeEndFlag st) s = .next ((sent .done).report ret label))

/-- R145: the second half of an escape sequence is the byte XOR 0x20; the flag is cleared, the stage advances, `cur_byte` keeps
the original value. That the stage advances after the second half, and what `cur_byte` keeps, is the spec's own decision D4 (R28,
R146). -/
def Obligations.EscapeSecondHalfIsSent : Prop :=
  ∀ (s : State) (st : Station), (s.tx st).stage ≠ .done →
    (s.queue st.outQueue).length < s.capacity st.outQueue → (s.tx st).escPending = true →
    ∃ ret label, exec (.encodeEscape2 st) s =
      .next (((s.setQueue st.outQueue (s.queue st.outQueue ++ [(s.tx st).curByte ^^^ 0x20#8])).setTx st
        (advance s.par.n { s.tx st with escPending := false })).report ret label)

/-- R146, R148: in a stuffable stage the logical byte of the stage is sent: ESCAPE alone and the flag set where the byte is
0x7E or 0x7D, else the byte itself and the stage advanced; a cursor outside the payload array stops (log 17). -/
def Obligations.StuffableStagesSendTheirByte : Prop :=
  ∀ (s : State) (st : Station) (b : Byte), (s.queue st.outQueue).length < s.capacity st.outQueue →
    (s.tx st).escPending = false →
    let t : State :=
      if b = 0x7E#8 ∨ b = 0x7D#8 then
        (s.setQueue st.outQueue (s.queue st.outQueue ++ [0x7D#8])).setTx st
          { s.tx st with curByte := b, escPending := true }
      else
        (s.setQueue st.outQueue (s.queue st.outQueue ++ [b])).setTx st (advance s.par.n { s.tx st with curByte := b })
    ((s.tx st).stage = .address → b = (s.txPacket st).address →
        ∃ ret label, exec (.encodeAddress st) s = .next (t.report ret label)) ∧
      ((s.tx st).stage = .control → b = (s.txPacket st).control →
        ∃ ret label, exec (.encodeControl st) s = .next (t.report ret label)) ∧
      ((s.tx st).stage = .payload → (s.txPacket st).payload[(s.tx st).cursor]? = some b →
        ∃ ret label, exec (.encodePayload st) s = .next (t.report ret label)) ∧
      ((s.tx st).stage = .payload → (s.txPacket st).payload.length ≤ (s.tx st).cursor →
        exec (.encodePayload st) s = .fault .payloadIndex) ∧
      ((s.tx st).stage = .fcsHigh → b = (s.tx st).fcsFirst →
        ∃ ret label, exec (.encodeFcsHigh st) s = .next (t.report ret label)) ∧
      ((s.tx st).stage = .fcsLow → b = (s.tx st).fcsSecond →
        ∃ ret label, exec (.encodeFcsLow st) s = .next (t.report ret label))

/-- R147: Advance moves to the next logical byte; Payload is left when the cursor reaches `N`; a stage the rule has no line for
stays (log 24). -/
def Obligations.AdvanceMovesToTheNextByte : Prop :=
  ∀ (s : State) (st : Station),
    let tx := s.tx st
    let goes : TxContext → Prop := fun x => ∃ ret label, exec (.advance st) s = .next ((s.setTx st x).report ret label)
    (tx.stage = .address → goes { tx with stage := .control }) ∧
      (tx.stage = .control → goes { tx with stage := .payload, cursor := 0 }) ∧
      (tx.stage = .payload → tx.cursor + 1 = s.par.n → goes { tx with stage := .fcsHigh, cursor := tx.cursor + 1 }) ∧
      (tx.stage = .payload → tx.cursor + 1 ≠ s.par.n → goes { tx with cursor := tx.cursor + 1 }) ∧
      (tx.stage = .fcsHigh → goes { tx with stage := .fcsLow }) ∧
      (tx.stage = .fcsLow → goes { tx with stage := .endFlag }) ∧
      (tx.stage = .startFlag ∨ tx.stage = .endFlag ∨ tx.stage = .done → goes tx)

/-- R29, R38, R39: the values TxInit, RxInit and RxOpen. -/
def Obligations.ContextsAreCreatedAtTheirValues : Prop :=
  ∀ (s : State) (st : Station),
    let init : RxContext :=
      { started := false, assembled := false, valid := false,
        packet := { address := 0x00#8, control := 0x00#8, payload := List.replicate s.par.n 0x00#8 }, pos := 0,
        unescPending := false, fcsFirst := 0x00#8, fcsSecond := 0x00#8 }
    (∀ crc : Word, ∃ ret label, exec (.txInit st crc) s =
        .next ((s.setTx st
          { stage := .startFlag, cursor := 0, fcsFirst := crc.extractLsb' 0 8, fcsSecond := crc.extractLsb' 8 8,
            escPending := false, curByte := 0x00#8 }).report ret label)) ∧
      (∃ ret label, exec (.rxInit st) s = .next ((s.setRx st init).report ret label)) ∧
      (∃ ret label, exec (.rxOpen st) s = .next ((s.setRx st { init with started := true }).report ret label))

/-- R150, with R63, R94 and R192: from a fresh transmission with room for the whole frame, as many activations of the initiator
as the frame has wire bytes write exactly the frame's wire bytes, and end in AwaitReply with the deadline armed. That the
duration is taken modulo `2^CLOCK_W` is the model's inference (log 20). -/
def Obligations.WholeFrameIsTransmitted : Prop :=
  ∀ s : State,
    let pkt := s.ini.link.txPacket
    let wire := frameBytes pkt.address pkt.control pkt.payload
    s.ini.state = .transmit → 1 ≤ s.par.n → pkt.payload.length = s.par.n →
    s.ini.link.tx = txInit (crc16 ([pkt.address, pkt.control] ++ pkt.payload)) →
    s.qa.length + wire.length ≤ s.par.capQA → s.prog = List.replicate wire.length (encode .scriptStepI) →
    ∃ t : State, Sys2Proof.core.run wire.length s = .next t ∧ t.qa = s.qa ++ wire ∧ t.qb = s.qb ∧
      t.ini.state = .awaitReply ∧ t.ini.link.tx.stage = .done ∧ t.ini.link.tx.cursor = s.par.n ∧
      t.ini.deadline = { armed := true, tStart := s.clock, duration := s.par.replyTimeoutMs % 2 ^ s.par.clockW } ∧
      t.res = s.res ∧ t.ini.link.rx = s.ini.link.rx ∧ t.prog = []

/-! ## The initiator -/

/-- R191: Prepare builds the request from the configuration inputs, creates both contexts, and goes to Transmit. That this takes
one whole activation, which touches no queue, is the spec's own decision D7, and that TxInit carries the FCS is D27. What the input
payload is where other than `N` bytes are driven is the model's choice (log 34). -/
def Obligations.PrepareBuildsTheRequest : Prop :=
  ∀ s : State, s.ini.state = .prepare →
    let crc := crc16 ([0x02#8, s.cfg.command] ++ s.cfgPayload)
    ∃ ret label, exec .initiatorPrepare s =
      .next ({ s with
        ini := { s.ini with
          state := .transmit
          link := { s.ini.link with
            txPacket := { address := 0x02#8, control := s.cfg.command, payload := s.cfgPayload }
            tx := { stage := .startFlag, cursor := 0, fcsFirst := crc.extractLsb' 0 8, fcsSecond := crc.extractLsb' 8 8,
                    escPending := false, curByte := 0x00#8 }
            rx := rxInit s.par.n } } }.report ret label)

/-- R192: Transmit makes one `EncodeStep`; if that reaches Done, the deadline is armed with the clock of this activation and
the state becomes AwaitReply (in the same activation, the spec's own decision D6). That the duration is taken modulo
`2^CLOCK_W` is the model's inference (log 20). -/
def Obligations.TransmitArmsTheDeadlineWhenDone : Prop :=
  ∀ s : State, s.ini.state = .transmit →
    (s.ini.link.tx.stage = .payload → s.ini.link.tx.cursor < s.ini.link.txPacket.payload.length) →
    ∃ e : State, encodeStep .initiator s = .next e ∧
      (e.ini.link.tx.stage ≠ .done → ∃ ret, exec .initiatorTransmit s = .next (e.report ret e.host.label)) ∧
      (e.ini.link.tx.stage = .done →
        ∃ ret label, exec .initiatorTransmit s =
          .next ({ e with
            ini := { e.ini with
              state := .awaitReply
              deadline := { armed := true, tStart := s.clock,
                            duration := s.par.replyTimeoutMs % 2 ^ s.par.clockW } } }.report ret label))

/-- R193, R194: AwaitReply makes one `DecodeStep`; a started frame disarms the deadline and goes to Receive, and wins over an
expired deadline; otherwise an expired deadline is disarmed and the initiator goes to Prepare, with ReplyTimeout;
otherwise nothing more happens. -/
def Obligations.AwaitReplyStartsOrTimesOut : Prop :=
  ∀ s : State, s.ini.state = .awaitReply →
    let d := decodeStep .initiator s
    let begun : Prop := d.ini.link.rx.started = true ∧ d.ini.link.rx.assembled = false
    let expired : Prop :=
      (s.ini.deadline.duration : Int) ≤ ((s.clock : Int) - (s.ini.deadline.tStart : Int)) % (2 : Int) ^ s.par.clockW
    (begun → ∃ ret label, exec .initiatorAwaitStart s =
        .next ({ d with ini := { d.ini with
          state := .receive, deadline := { s.ini.deadline with armed := false } } }.report ret label)) ∧
      (¬begun → expired → ∃ ret, exec .initiatorAwaitTimeout s =
        .next ({ d with ini := { d.ini with
          state := .prepare, deadline := { s.ini.deadline with armed := false } } }.report ret (some .replyTimeout))) ∧
      (¬begun → ¬expired → exec .scriptStepI s = .next d)

/-- R195: Receive makes one `DecodeStep`; a closed frame that is valid leads to Process, one that is not to Prepare with the
receive context reset; the label is the `DecodeStep`'s. -/
def Obligations.InitiatorReceiveWaitsForTheFrame : Prop :=
  ∀ s : State, s.ini.state = .receive →
    let d := decodeStep .initiator s
    let goes : State → Prop := fun t => ∃ ret, exec .initiatorReceive s = .next (t.report ret d.host.label)
    (d.ini.link.rx.assembled = false → goes d) ∧
      (d.ini.link.rx.assembled = true → d.ini.link.rx.valid = true → goes { d with ini := { d.ini with state := .process } }) ∧
      (d.ini.link.rx.assembled = true → d.ini.link.rx.valid = false →
        goes { d with ini := { d.ini with state := .prepare, link := { d.ini.link with rx := rxInit s.par.n } } })

/-- R196: Process emits one ResultReady event with the content of `I.result` and goes to Prepare; it changes no other state. -/
def Obligations.InitiatorProcessEmitsTheResult : Prop :=
  ∀ s : State, s.ini.state = .process →
    ∃ ret label, exec .initiatorProcess s =
      .next ({ s with
        ini := { s.ini with state := .prepare }
        host := { s.host with ready := s.host.ready ++ [s.ini.link.result] } }.report ret label)

/-- A ResultReady event is emitted by an activation of the initiator in Process and by nothing else, once (R196, D24); each row of
`InitiatorStep` is such an activation (log 11). -/
def Obligations.ResultReadyOnlyFromProcess : Prop :=
  ∀ (i : Instr) (s t : State), exec i s = .next t →
    t.host.ready = s.host.ready ∨
      (i ∈ [Instr.scriptStepI, .initiatorPrepare, .initiatorTransmit, .initiatorAwaitStart, .initiatorAwaitTimeout,
          .initiatorReceive, .initiatorProcess] ∧ s.ini.state = .process ∧
        t.host.ready = s.host.ready ++ [s.ini.link.result])

/-- R197: every transition of `I.state` under an activation, under the condition R197 gives, evaluated after the activation's one
codec call, with what R197 says happens besides. That Transmit and Receive make their test after the codec call of the same
activation is the spec's own decision D6 and D9, that a frame start wins over a timeout is D8, and that the duration is
taken modulo `2^CLOCK_W` is the model's inference (log 20). What the input payload is where other than `N` bytes are driven is the
model's choice (log 34). -/
def Obligations.InitiatorTransitions : Prop :=
  ∀ s t : State, exec .scriptStepI s = .next t →
    let rx := (decodeStep .initiator s).ini.link.rx
    let begun : Prop := rx.started = true ∧ rx.assembled = false
    let request : Packet := { address := 0x02#8, control := s.cfg.command, payload := s.cfgPayload }
    let armed : Deadline :=
      { armed := true, tStart := s.clock, duration := s.par.replyTimeoutMs % 2 ^ s.par.clockW }
    let disarmed : Deadline := { s.ini.deadline with armed := false }
    (s.ini.state = .prepare → t.ini.state = .transmit ∧ t.ini.link.txPacket = request ∧
        t.ini.link.tx = txInit (crc16 ([0x02#8, s.cfg.command] ++ s.cfgPayload)) ∧ t.ini.link.rx = rxInit s.par.n) ∧
      (s.ini.state = .transmit → t.ini.link.tx.stage = .done → t.ini.state = .awaitReply ∧ t.ini.deadline = armed) ∧
      (s.ini.state = .transmit → t.ini.link.tx.stage ≠ .done →
        t.ini.state = .transmit ∧ t.ini.deadline = s.ini.deadline) ∧
      (s.ini.state = .awaitReply → begun → t.ini.state = .receive ∧ t.ini.deadline = disarmed) ∧
      (s.ini.state = .awaitReply → ¬begun → isExpired s s.ini.deadline = true →
        t.ini.state = .prepare ∧ t.ini.deadline = disarmed ∧ t.host.label = some .replyTimeout) ∧
      (s.ini.state = .awaitReply → ¬begun → isExpired s s.ini.deadline = false →
        t.ini.state = .awaitReply ∧ t.ini.deadline = s.ini.deadline) ∧
      (s.ini.state = .receive → rx.assembled = true → rx.valid = true →
        t.ini.state = .process ∧ t.ini.link.rx = rx) ∧
      (s.ini.state = .receive → rx.assembled = true → rx.valid = false →
        t.ini.state = .prepare ∧ t.ini.link.rx = rxInit s.par.n) ∧
      (s.ini.state = .receive → rx.assembled = false → t.ini.state = .receive ∧ t.ini.link.rx = rx) ∧
      (s.ini.state = .process → t.ini.state = .prepare ∧ t.host.ready = s.host.ready ++ [s.ini.link.result]) ∧
      (s.ini.state ≠ .process → t.host.ready = s.host.ready)

/-! ## The responder -/

/-- R211, R212: WaitCommand and Receive make one `DecodeStep`; a started frame leads to Receive, a closed valid one to Process, a
closed invalid one back to WaitCommand with the receive context reset; the label is the `DecodeStep`'s. -/
def Obligations.ResponderReceivesACommand : Prop :=
  ∀ s : State,
    let d := decodeStep .responder s
    let goes : Instr → State → Prop := fun i t => ∃ ret, exec i s = .next (t.report ret d.host.label)
    (s.res.state = .waitCommand → d.res.link.rx.started = false → goes .responderWaitCommand d) ∧
      (s.res.state = .waitCommand → d.res.link.rx.started = true →
        goes .responderWaitCommand { d with res := { d.res with state := .receive } }) ∧
      (s.res.state = .receive → d.res.link.rx.assembled = false → goes .responderReceive d) ∧
      (s.res.state = .receive → d.res.link.rx.assembled = true → d.res.link.rx.valid = true →
        goes .responderReceive { d with res := { d.res with state := .process } }) ∧
      (s.res.state = .receive → d.res.link.rx.assembled = true → d.res.link.rx.valid = false →
        goes .responderReceive { d with
          res := { d.res with state := .waitCommand, link := { d.res.link with rx := rxInit s.par.n } } })

/-- R214, R215: Process has the command processor make the reply, builds the reply packet with the request's control byte,
creates both contexts, and goes to Reply. -/
def Obligations.ResponderProcessBuildsTheReply : Prop :=
  ∀ s : State, s.res.state = .process →
    let c := s.res.link.result.control
    let p := s.res.link.result.payload
    let reply : List Byte := if c = 0x01#8 then p.map (fun b => ~~~b) else if c = 0x02#8 then p.reverse else p
    let crc := crc16 ([0x01#8, c] ++ reply)
    ∃ ret label, exec .responderProcess s =
      .next ({ s with
        res := { s.res with
          state := .reply
          link := { s.res.link with
            txPacket := { address := 0x01#8, control := c, payload := reply }
            tx := { stage := .startFlag, cursor := 0, fcsFirst := crc.extractLsb' 0 8, fcsSecond := crc.extractLsb' 8 8,
                    escPending := false, curByte := 0x00#8 }
            rx := rxInit s.par.n } } }.report ret label)

/-- R216, R217, R218: Reply takes an inbound byte first and then makes no encode attempt; a byte that starts a frame preempts the
reply, with the receive context at RxOpen and the transmit context untouched; with no inbound byte one `EncodeStep` is
made, and Done leads to WaitCommand. -/
def Obligations.ReplyPollsThenSends : Prop :=
  ∀ s : State, s.res.state = .reply →
    let d := decodeStep .responder s
    (s.qa ≠ [] → d.res.link.rx.started = false →
        (∃ ret, exec .responderReplyPoll s = .next (d.report ret d.host.label)) ∧ d.qb = s.qb) ∧
      (s.qa ≠ [] → d.res.link.rx.started = true →
        ∃ ret label, exec .responderReplyPreempt s =
          .next ({ d with
            res := { d.res with
              state := .receive
              link := { d.res.link with rx := { rxInit s.par.n with started := true }, tx := s.res.link.tx } }
            qb := s.qb }.report ret label)) ∧
      (s.qa = [] →
        (s.res.link.tx.stage = .payload → s.res.link.tx.cursor < s.res.link.txPacket.payload.length) →
        ∃ e : State, encodeStep .responder s = .next e ∧
          (e.res.link.tx.stage ≠ .done → ∃ ret, exec .responderReplySend s = .next (e.report ret e.host.label)) ∧
          (e.res.link.tx.stage = .done → ∃ ret, exec .responderReplySend s = .next ({ e with
            res := { e.res with state := .waitCommand, link := { e.res.link with rx := rxInit s.par.n } } }.report ret
              e.host.label)))

/-- R220: every transition of `R.state` under an activation, under the condition R220 gives, with what R220 says happens besides.
The tests after the codec call of the same activation, the whole of Process in one activation, the echoed control byte, one
unit of work in Reply and the kept opening flag are the spec's own decisions D26, D9, D16, D17, D18, D19 and D6. -/
def Obligations.ResponderTransitions : Prop :=
  ∀ s t : State, exec .scriptStepR s = .next t →
    let rx := (decodeStep .responder s).res.link.rx
    let c := s.res.link.result.control
    let p := s.res.link.result.payload
    let reply : List Byte := if c = 0x01#8 then p.map (fun b => ~~~b) else if c = 0x02#8 then p.reverse else p
    (s.res.state = .waitCommand → rx.started = true → t.res.state = .receive ∧ t.res.link.rx = rx) ∧
      (s.res.state = .waitCommand → rx.started = false → t.res.state = .waitCommand ∧ t.res.link.rx = rx) ∧
      (s.res.state = .receive → rx.assembled = true → rx.valid = true → t.res.state = .process) ∧
      (s.res.state = .receive → rx.assembled = true → rx.valid = false →
        t.res.state = .waitCommand ∧ t.res.link.rx = rxInit s.par.n) ∧
      (s.res.state = .receive → rx.assembled = false → t.res.state = .receive ∧ t.res.link.rx = rx) ∧
      (s.res.state = .process →
        t.res.state = .reply ∧ t.res.link.txPacket = { address := 0x01#8, control := c, payload := reply } ∧
          t.res.link.tx = txInit (crc16 ([0x01#8, c] ++ reply)) ∧ t.res.link.rx = rxInit s.par.n ∧ t.qa = s.qa ∧
          t.qb = s.qb) ∧
      (s.res.state = .reply → s.qa ≠ [] → rx.started = true →
        t.res.state = .receive ∧ t.res.link.rx = rxOpen s.par.n ∧ t.res.link.tx = s.res.link.tx ∧
          t.res.link.txPacket = s.res.link.txPacket ∧ t.qb = s.qb) ∧
      (s.res.state = .reply → s.qa ≠ [] → rx.started = false →
        t.res.state = .reply ∧ t.res.link.rx = rx ∧ t.res.link.tx = s.res.link.tx ∧ t.qb = s.qb) ∧
      (s.res.state = .reply → s.qa = [] → t.res.link.tx.stage = .done →
        t.res.state = .waitCommand ∧ t.res.link.rx = rxInit s.par.n) ∧
      (s.res.state = .reply → s.qa = [] → t.res.link.tx.stage ≠ .done →
        t.res.state = .reply ∧ t.res.link.rx = s.res.link.rx)

/-! ## Whole-machine rules -/

/-- An activation is the row its state selects: in every state every row of `InitiatorStep` and of `ResponderStep` does what the
activation does, and is told whether it is the one the opcode table's condition selects; the conditions of `ResponderStep`
cover every state, those of `InitiatorStep` every state but an AwaitReply that neither sees a frame start nor times out, and no
two of them hold at once (R106, R190, R199, R210, R219). That the row of another arm runs the selected one, that the idle
AwaitReply has no row, and what the host is told, is the model's choice (log 11). -/
def Obligations.ActivationRunsTheSelectedRow : Prop :=
  ∀ s : State,
    let irx := (decodeStep .initiator s).ini.link.rx
    let begun : Prop := irx.started = true ∧ irx.assembled = false
    let opened : Prop := (decodeStep .responder s).res.link.rx.started = true
    let initiatorRows : List (Instr × Prop) :=
      [(.initiatorPrepare, s.ini.state = .prepare), (.initiatorTransmit, s.ini.state = .transmit),
        (.initiatorAwaitStart, s.ini.state = .awaitReply ∧ begun),
        (.initiatorAwaitTimeout, s.ini.state = .awaitReply ∧ ¬begun ∧ isExpired s s.ini.deadline = true),
        (.initiatorReceive, s.ini.state = .receive), (.initiatorProcess, s.ini.state = .process)]
    let responderRows : List (Instr × Prop) :=
      [(.responderWaitCommand, s.res.state = .waitCommand), (.responderReceive, s.res.state = .receive),
        (.responderProcess, s.res.state = .process), (.responderReplyPoll, s.res.state = .reply ∧ s.qa ≠ [] ∧ ¬opened),
        (.responderReplyPreempt, s.res.state = .reply ∧ s.qa ≠ [] ∧ opened),
        (.responderReplySend, s.res.state = .reply ∧ s.qa = [])]
    let runs : Instr → Instr × Prop → Prop := fun activation row =>
      ∃ named : Bool, (named = true ↔ row.2) ∧
        (∀ t, exec activation s = .next t → exec row.1 s = .next (t.report (.bool named) t.host.label)) ∧
        (∀ f, exec activation s = .fault f → exec row.1 s = .fault f)
    (∀ row ∈ initiatorRows, runs .scriptStepI row) ∧ (∀ row ∈ responderRows, runs .scriptStepR row) ∧
      (∀ row ∈ initiatorRows, ∀ other ∈ initiatorRows, row.2 → other.2 → row.1 = other.1) ∧
      (¬(s.ini.state = .awaitReply ∧ ¬begun ∧ isExpired s s.ini.deadline = false) → ∃ row ∈ initiatorRows, row.2) ∧
      (∃ row ∈ responderRows, row.2 ∧ ∀ other ∈ responderRows, other.2 → other.1 = row.1)

/-- R21, R62, R68: an activation touches its own station's record and the queues only, and moves at most one byte across one
queue: the initiator writes `QA` at the tail or reads `QB` at the head, the responder the other way; a full queue is not
written. -/
def Obligations.ActivationMovesAtMostOneByte : Prop :=
  ∀ s t : State,
    (exec .scriptStepI s = .next t →
        t.res = s.res ∧ t.clock = s.clock ∧ t.cfg = s.cfg ∧ t.par = s.par ∧ t.prog = s.prog ∧ t.turn = s.turn ∧
          t.free = s.free ∧
          ((t.qb = s.qb ∧ (t.qa = s.qa ∨ (s.qa.length < s.par.capQA ∧ ∃ b, t.qa = s.qa ++ [b]))) ∨
            (t.qa = s.qa ∧ ∃ b, s.qb = b :: t.qb))) ∧
      (exec .scriptStepR s = .next t →
        t.ini = s.ini ∧ t.clock = s.clock ∧ t.cfg = s.cfg ∧ t.par = s.par ∧ t.prog = s.prog ∧ t.turn = s.turn ∧
          t.free = s.free ∧
          ((t.qa = s.qa ∧ (t.qb = s.qb ∨ (s.qb.length < s.par.capQB ∧ ∃ b, t.qb = s.qb ++ [b]))) ∨
            (t.qb = s.qb ∧ ∃ b, s.qa = b :: t.qa)))

/-- R78, R309: the configuration inputs are read in Prepare only: in any other state an activation does the same whatever they
hold; the responder never reads them. That they are sampled in Prepare only is the spec's own decision D7 (R191). -/
def Obligations.ConfigurationIsSampledInPrepareOnly : Prop :=
  ∀ (s t : State) (c : CfgInputs),
    (s.ini.state ≠ .prepare → exec .scriptStepI s = .next t → exec .scriptStepI { s with cfg := c } = .next { t with cfg := c }) ∧
      (exec .scriptStepR s = .next t → exec .scriptStepR { s with cfg := c } = .next { t with cfg := c })

/-- What the host was told before changes nothing outside its port, whatever the instruction. Only EXPECT reads the port at all,
and of it only the events (log 10, log 16): any other instruction tells the same value and label and adds the same events
whatever the port held, and EXPECT does where the events are the same (R173, R252, R261; the port is the model's own). -/
def Obligations.OnlyExpectReadsTheHostPort : Prop :=
  ∀ (i : Instr) (s t : State) (h : HostPort), exec i s = .next t →
    (∃ h' : HostPort, exec i { s with host := h } = .next { t with host := h' }) ∧
      (h.ready = s.host.ready → exec i { s with host := h } = .next t) ∧
      ((∀ p : Pred, i ≠ .scriptExpect p) → ∃ events : List ResultBuffer, t.host.ready = s.host.ready ++ events ∧
        exec i { s with host := h } = .next { t with host := { t.host with ready := h.ready ++ events } })

/-- R273: no station ever stops: from every state that meets the invariants, an activation of either station, and a step of the
free-running schedule, answers a next state. -/
def Obligations.StationsNeverStop : Prop :=
  ∀ s : State, Good s →
    (∃ t, exec .scriptStepI s = .next t) ∧ (∃ t, exec .scriptStepR s = .next t) ∧
      (s.prog = [] → ∃ t, step s = .next t)

/-- Every step, of any instruction, keeps the sizes of the state: arrays of `N` bytes, queues within their capacities, the
clock within its width (R23, R61, R239). -/
def Obligations.StepKeepsTheStateSized : Prop :=
  ∀ s t : State, Sized s → step s = .next t → Sized t

/-- R49: every step of a system moved by activations and script lines keeps the invariants the spec lists, and those they rest
on: the station states, the contexts, the deadline and the queues stay consistent. -/
def Obligations.StepKeepsTheInvariants : Prop :=
  ∀ s t : State, Good s → OnlyScriptLines s → step s = .next t → Good t ∧ OnlyScriptLines t

/-! ## Stuffing -/

/-- R94: exactly the bytes equal to FLAG or ESCAPE are stuffed, wherever they stand between the flags, each as ESCAPE and the byte
XOR 0x20; the two flags are never stuffed, and every other value stands for itself. -/
def Obligations.OnlyFlagAndEscapeAreStuffed : Prop :=
  ∀ (a c : Byte) (p : List Byte),
    let crc := crc16 ([a, c] ++ p)
    let data : List Byte := [a, c] ++ p ++ [crc.extractLsb' 0 8, crc.extractLsb' 8 8]
    frameBytes a c p =
      [0x7E#8] ++ data.flatMap (fun b => if b = 0x7E#8 ∨ b = 0x7D#8 then [0x7D#8, b ^^^ 0x20#8] else [b]) ++ [0x7E#8]

/-! ## Bytes on the wire that are no row of the table -/

/-- R100, R102: no sequence of bytes on the wire stops a step: from every state a word of wire bytes, be it an instruction or not,
answers a next state, and touches nothing but the receiver it is for. One that is no instruction as a whole is its bytes one after
another, each as its own row. Such is a frame whose two check bytes are not those of its content: from RxInit, of which alone this
is said, it is closed by its last flag, is not valid, and leaves the result buffer as it was; where the address, the command and the
length are acceptable the label is ChecksumMismatch (R172, R173; the first failing requirement, the spec's own decision D14). How a byte enters the CRC register is the spec's step from general knowledge (G1; PRESUMED, log 19). That a
fetch word holds bytes for a receiver past the queue is the model's choice (log 1, log 12, log 13). -/
def Obligations.WireBytesNeverTrap : Prop :=
  (∀ (s : State) (w : FetchWord) (rest : List FetchWord), s.prog = w :: rest →
    w.fmt ∈ [Format.wireByte, .afterEscape, .wirePair, .frame] →
    let now : State := { s with prog := rest }
    let row : Byte → Instr := fun b =>
      if b = 0x7E#8 then .flag w.st else if b = 0x7D#8 then .escape w.st else .data w.st b
    (∃ rx result ret label, step s = .next (((now.setRx w.st rx).setResult w.st result).report ret label)) ∧
      (∀ e : DecodeError, decode w = .error e →
        step s = w.bytes.foldl (fun o b => andThen o (exec (row b))) (.next (now.report .nothing none)))) ∧
    (∀ (s : State) (st : Station) (a c f1 f2 : Byte) (p : List Byte) (rest : List FetchWord),
      s.rx st = rxInit s.par.n → [f1, f2] ≠ [fcsFirst (packetCrc a c p), fcsSecond (packetCrc a c p)] →
      s.prog = ⟨.frame, st, 0x7E#8 :: (stuff (a :: c :: (p ++ [f1, f2])) ++ [0x7E#8])⟩ :: rest →
      ∃ t, step s = .next t ∧ t.prog = rest ∧ (t.rx st).started = true ∧ (t.rx st).assembled = true ∧
        (t.rx st).valid = false ∧ t.result st = s.result st ∧
        (a = st.address → c = 0x01#8 ∨ c = 0x02#8 → p.length = s.par.n → t.host.label = some .checksumMismatch))
end

