-- ==== Sys2Proof/Laws/State.lean ====
section
/-! SUPPORT. One lemma per field per update of the state, each true by computation, so that no later proof unfolds a record
update. -/

namespace Sys2Proof.Machine

@[simp] theorem State.link_initiator (s : State) : s.link .initiator = s.ini.link := rfl
@[simp] theorem State.link_responder (s : State) : s.link .responder = s.res.link := rfl
@[simp] theorem State.cfgPayload_length (s : State) : s.cfgPayload.length = s.par.n := by simp [State.cfgPayload, zeros]
theorem State.cfgPayload_eq (s : State) (h : s.cfg.payload.length = s.par.n) : s.cfgPayload = s.cfg.payload := by
  simp [State.cfgPayload, ← h]
@[simp] theorem State.queue_qa (s : State) : s.queue .qa = s.qa := rfl
@[simp] theorem State.queue_qb (s : State) : s.queue .qb = s.qb := rfl
@[simp] theorem State.capacity_qa (s : State) : s.capacity .qa = s.par.capQA := rfl
@[simp] theorem State.capacity_qb (s : State) : s.capacity .qb = s.par.capQB := rfl

/-! ## setLink -/

@[simp] theorem State.setLink_ini_state (s : State) (st : Station) (l : Link) : (s.setLink st l).ini.state = s.ini.state := by cases st <;> rfl
@[simp] theorem State.setLink_ini_deadline (s : State) (st : Station) (l : Link) : (s.setLink st l).ini.deadline = s.ini.deadline := by cases st <;> rfl
@[simp] theorem State.setLink_res_state (s : State) (st : Station) (l : Link) : (s.setLink st l).res.state = s.res.state := by cases st <;> rfl
@[simp] theorem State.setLink_qa (s : State) (st : Station) (l : Link) : (s.setLink st l).qa = s.qa := by cases st <;> rfl
@[simp] theorem State.setLink_qb (s : State) (st : Station) (l : Link) : (s.setLink st l).qb = s.qb := by cases st <;> rfl
@[simp] theorem State.setLink_clock (s : State) (st : Station) (l : Link) : (s.setLink st l).clock = s.clock := by cases st <;> rfl
@[simp] theorem State.setLink_cfg (s : State) (st : Station) (l : Link) : (s.setLink st l).cfg = s.cfg := by cases st <;> rfl
@[simp] theorem State.setLink_par (s : State) (st : Station) (l : Link) : (s.setLink st l).par = s.par := by cases st <;> rfl
@[simp] theorem State.setLink_prog (s : State) (st : Station) (l : Link) : (s.setLink st l).prog = s.prog := by cases st <;> rfl
@[simp] theorem State.setLink_turn (s : State) (st : Station) (l : Link) : (s.setLink st l).turn = s.turn := by cases st <;> rfl
@[simp] theorem State.setLink_free (s : State) (st : Station) (l : Link) : (s.setLink st l).free = s.free := by cases st <;> rfl
@[simp] theorem State.setLink_host (s : State) (st : Station) (l : Link) : (s.setLink st l).host = s.host := by cases st <;> rfl
@[simp] theorem State.setLink_queue (s : State) (st : Station) (l : Link) (q : Queue) : (s.setLink st l).queue q = s.queue q := by cases st <;> rfl
@[simp] theorem State.setLink_capacity (s : State) (st : Station) (l : Link) (q : Queue) : (s.setLink st l).capacity q = s.capacity q := by cases st <;> rfl
theorem State.setLink_link_of_ne (s : State) (st : Station) (l : Link) (st' : Station) (h : st' ≠ st) : (s.setLink st l).link st' = s.link st' := by
  cases st <;> cases st' <;> first | rfl | exact absurd rfl h

/-! ## setTx -/

@[simp] theorem State.setTx_ini_state (s : State) (st : Station) (x : TxContext) : (s.setTx st x).ini.state = s.ini.state := by cases st <;> rfl
@[simp] theorem State.setTx_ini_deadline (s : State) (st : Station) (x : TxContext) : (s.setTx st x).ini.deadline = s.ini.deadline := by cases st <;> rfl
@[simp] theorem State.setTx_res_state (s : State) (st : Station) (x : TxContext) : (s.setTx st x).res.state = s.res.state := by cases st <;> rfl
@[simp] theorem State.setTx_qa (s : State) (st : Station) (x : TxContext) : (s.setTx st x).qa = s.qa := by cases st <;> rfl
@[simp] theorem State.setTx_qb (s : State) (st : Station) (x : TxContext) : (s.setTx st x).qb = s.qb := by cases st <;> rfl
@[simp] theorem State.setTx_clock (s : State) (st : Station) (x : TxContext) : (s.setTx st x).clock = s.clock := by cases st <;> rfl
@[simp] theorem State.setTx_cfg (s : State) (st : Station) (x : TxContext) : (s.setTx st x).cfg = s.cfg := by cases st <;> rfl
@[simp] theorem State.setTx_par (s : State) (st : Station) (x : TxContext) : (s.setTx st x).par = s.par := by cases st <;> rfl
@[simp] theorem State.setTx_prog (s : State) (st : Station) (x : TxContext) : (s.setTx st x).prog = s.prog := by cases st <;> rfl
@[simp] theorem State.setTx_turn (s : State) (st : Station) (x : TxContext) : (s.setTx st x).turn = s.turn := by cases st <;> rfl
@[simp] theorem State.setTx_free (s : State) (st : Station) (x : TxContext) : (s.setTx st x).free = s.free := by cases st <;> rfl
@[simp] theorem State.setTx_host (s : State) (st : Station) (x : TxContext) : (s.setTx st x).host = s.host := by cases st <;> rfl
@[simp] theorem State.setTx_queue (s : State) (st : Station) (x : TxContext) (q : Queue) : (s.setTx st x).queue q = s.queue q := by cases st <;> rfl
@[simp] theorem State.setTx_capacity (s : State) (st : Station) (x : TxContext) (q : Queue) : (s.setTx st x).capacity q = s.capacity q := by cases st <;> rfl
theorem State.setTx_link_of_ne (s : State) (st : Station) (x : TxContext) (st' : Station) (h : st' ≠ st) : (s.setTx st x).link st' = s.link st' := by
  cases st <;> cases st' <;> first | rfl | exact absurd rfl h

/-! ## setRx -/

@[simp] theorem State.setRx_ini_state (s : State) (st : Station) (x : RxContext) : (s.setRx st x).ini.state = s.ini.state := by cases st <;> rfl
@[simp] theorem State.setRx_ini_deadline (s : State) (st : Station) (x : RxContext) : (s.setRx st x).ini.deadline = s.ini.deadline := by cases st <;> rfl
@[simp] theorem State.setRx_res_state (s : State) (st : Station) (x : RxContext) : (s.setRx st x).res.state = s.res.state := by cases st <;> rfl
@[simp] theorem State.setRx_qa (s : State) (st : Station) (x : RxContext) : (s.setRx st x).qa = s.qa := by cases st <;> rfl
@[simp] theorem State.setRx_qb (s : State) (st : Station) (x : RxContext) : (s.setRx st x).qb = s.qb := by cases st <;> rfl
@[simp] theorem State.setRx_clock (s : State) (st : Station) (x : RxContext) : (s.setRx st x).clock = s.clock := by cases st <;> rfl
@[simp] theorem State.setRx_cfg (s : State) (st : Station) (x : RxContext) : (s.setRx st x).cfg = s.cfg := by cases st <;> rfl
@[simp] theorem State.setRx_par (s : State) (st : Station) (x : RxContext) : (s.setRx st x).par = s.par := by cases st <;> rfl
@[simp] theorem State.setRx_prog (s : State) (st : Station) (x : RxContext) : (s.setRx st x).prog = s.prog := by cases st <;> rfl
@[simp] theorem State.setRx_turn (s : State) (st : Station) (x : RxContext) : (s.setRx st x).turn = s.turn := by cases st <;> rfl
@[simp] theorem State.setRx_free (s : State) (st : Station) (x : RxContext) : (s.setRx st x).free = s.free := by cases st <;> rfl
@[simp] theorem State.setRx_host (s : State) (st : Station) (x : RxContext) : (s.setRx st x).host = s.host := by cases st <;> rfl
@[simp] theorem State.setRx_queue (s : State) (st : Station) (x : RxContext) (q : Queue) : (s.setRx st x).queue q = s.queue q := by cases st <;> rfl
@[simp] theorem State.setRx_capacity (s : State) (st : Station) (x : RxContext) (q : Queue) : (s.setRx st x).capacity q = s.capacity q := by cases st <;> rfl
theorem State.setRx_link_of_ne (s : State) (st : Station) (x : RxContext) (st' : Station) (h : st' ≠ st) : (s.setRx st x).link st' = s.link st' := by
  cases st <;> cases st' <;> first | rfl | exact absurd rfl h

/-! ## setTxPacket -/

@[simp] theorem State.setTxPacket_ini_state (s : State) (st : Station) (x : Packet) : (s.setTxPacket st x).ini.state = s.ini.state := by cases st <;> rfl
@[simp] theorem State.setTxPacket_ini_deadline (s : State) (st : Station) (x : Packet) : (s.setTxPacket st x).ini.deadline = s.ini.deadline := by cases st <;> rfl
@[simp] theorem State.setTxPacket_res_state (s : State) (st : Station) (x : Packet) : (s.setTxPacket st x).res.state = s.res.state := by cases st <;> rfl
@[simp] theorem State.setTxPacket_qa (s : State) (st : Station) (x : Packet) : (s.setTxPacket st x).qa = s.qa := by cases st <;> rfl
@[simp] theorem State.setTxPacket_qb (s : State) (st : Station) (x : Packet) : (s.setTxPacket st x).qb = s.qb := by cases st <;> rfl
@[simp] theorem State.setTxPacket_clock (s : State) (st : Station) (x : Packet) : (s.setTxPacket st x).clock = s.clock := by cases st <;> rfl
@[simp] theorem State.setTxPacket_cfg (s : State) (st : Station) (x : Packet) : (s.setTxPacket st x).cfg = s.cfg := by cases st <;> rfl
@[simp] theorem State.setTxPacket_par (s : State) (st : Station) (x : Packet) : (s.setTxPacket st x).par = s.par := by cases st <;> rfl
@[simp] theorem State.setTxPacket_prog (s : State) (st : Station) (x : Packet) : (s.setTxPacket st x).prog = s.prog := by cases st <;> rfl
@[simp] theorem State.setTxPacket_turn (s : State) (st : Station) (x : Packet) : (s.setTxPacket st x).turn = s.turn := by cases st <;> rfl
@[simp] theorem State.setTxPacket_free (s : State) (st : Station) (x : Packet) : (s.setTxPacket st x).free = s.free := by cases st <;> rfl
@[simp] theorem State.setTxPacket_host (s : State) (st : Station) (x : Packet) : (s.setTxPacket st x).host = s.host := by cases st <;> rfl
@[simp] theorem State.setTxPacket_queue (s : State) (st : Station) (x : Packet) (q : Queue) : (s.setTxPacket st x).queue q = s.queue q := by cases st <;> rfl
@[simp] theorem State.setTxPacket_capacity (s : State) (st : Station) (x : Packet) (q : Queue) : (s.setTxPacket st x).capacity q = s.capacity q := by cases st <;> rfl
theorem State.setTxPacket_link_of_ne (s : State) (st : Station) (x : Packet) (st' : Station) (h : st' ≠ st) : (s.setTxPacket st x).link st' = s.link st' := by
  cases st <;> cases st' <;> first | rfl | exact absurd rfl h

/-! ## setResult -/

@[simp] theorem State.setResult_ini_state (s : State) (st : Station) (x : ResultBuffer) : (s.setResult st x).ini.state = s.ini.state := by cases st <;> rfl
@[simp] theorem State.setResult_ini_deadline (s : State) (st : Station) (x : ResultBuffer) : (s.setResult st x).ini.deadline = s.ini.deadline := by cases st <;> rfl
@[simp] theorem State.setResult_res_state (s : State) (st : Station) (x : ResultBuffer) : (s.setResult st x).res.state = s.res.state := by cases st <;> rfl
@[simp] theorem State.setResult_qa (s : State) (st : Station) (x : ResultBuffer) : (s.setResult st x).qa = s.qa := by cases st <;> rfl
@[simp] theorem State.setResult_qb (s : State) (st : Station) (x : ResultBuffer) : (s.setResult st x).qb = s.qb := by cases st <;> rfl
@[simp] theorem State.setResult_clock (s : State) (st : Station) (x : ResultBuffer) : (s.setResult st x).clock = s.clock := by cases st <;> rfl
@[simp] theorem State.setResult_cfg (s : State) (st : Station) (x : ResultBuffer) : (s.setResult st x).cfg = s.cfg := by cases st <;> rfl
@[simp] theorem State.setResult_par (s : State) (st : Station) (x : ResultBuffer) : (s.setResult st x).par = s.par := by cases st <;> rfl
@[simp] theorem State.setResult_prog (s : State) (st : Station) (x : ResultBuffer) : (s.setResult st x).prog = s.prog := by cases st <;> rfl
@[simp] theorem State.setResult_turn (s : State) (st : Station) (x : ResultBuffer) : (s.setResult st x).turn = s.turn := by cases st <;> rfl
@[simp] theorem State.setResult_free (s : State) (st : Station) (x : ResultBuffer) : (s.setResult st x).free = s.free := by cases st <;> rfl
@[simp] theorem State.setResult_host (s : State) (st : Station) (x : ResultBuffer) : (s.setResult st x).host = s.host := by cases st <;> rfl
@[simp] theorem State.setResult_queue (s : State) (st : Station) (x : ResultBuffer) (q : Queue) : (s.setResult st x).queue q = s.queue q := by cases st <;> rfl
@[simp] theorem State.setResult_capacity (s : State) (st : Station) (x : ResultBuffer) (q : Queue) : (s.setResult st x).capacity q = s.capacity q := by cases st <;> rfl
theorem State.setResult_link_of_ne (s : State) (st : Station) (x : ResultBuffer) (st' : Station) (h : st' ≠ st) : (s.setResult st x).link st' = s.link st' := by
  cases st <;> cases st' <;> first | rfl | exact absurd rfl h

/-! ## route -/

@[simp] theorem State.route_ini_state (s : State) (st : Station) (d : Byte) : (s.route st d).ini.state = s.ini.state := by cases st <;> rfl
@[simp] theorem State.route_ini_deadline (s : State) (st : Station) (d : Byte) : (s.route st d).ini.deadline = s.ini.deadline := by cases st <;> rfl
@[simp] theorem State.route_res_state (s : State) (st : Station) (d : Byte) : (s.route st d).res.state = s.res.state := by cases st <;> rfl
@[simp] theorem State.route_qa (s : State) (st : Station) (d : Byte) : (s.route st d).qa = s.qa := by cases st <;> rfl
@[simp] theorem State.route_qb (s : State) (st : Station) (d : Byte) : (s.route st d).qb = s.qb := by cases st <;> rfl
@[simp] theorem State.route_clock (s : State) (st : Station) (d : Byte) : (s.route st d).clock = s.clock := by cases st <;> rfl
@[simp] theorem State.route_cfg (s : State) (st : Station) (d : Byte) : (s.route st d).cfg = s.cfg := by cases st <;> rfl
@[simp] theorem State.route_par (s : State) (st : Station) (d : Byte) : (s.route st d).par = s.par := by cases st <;> rfl
@[simp] theorem State.route_prog (s : State) (st : Station) (d : Byte) : (s.route st d).prog = s.prog := by cases st <;> rfl
@[simp] theorem State.route_turn (s : State) (st : Station) (d : Byte) : (s.route st d).turn = s.turn := by cases st <;> rfl
@[simp] theorem State.route_free (s : State) (st : Station) (d : Byte) : (s.route st d).free = s.free := by cases st <;> rfl
@[simp] theorem State.route_host (s : State) (st : Station) (d : Byte) : (s.route st d).host = s.host := by cases st <;> rfl
@[simp] theorem State.route_queue (s : State) (st : Station) (d : Byte) (q : Queue) : (s.route st d).queue q = s.queue q := by cases st <;> rfl
@[simp] theorem State.route_capacity (s : State) (st : Station) (d : Byte) (q : Queue) : (s.route st d).capacity q = s.capacity q := by cases st <;> rfl
theorem State.route_link_of_ne (s : State) (st : Station) (d : Byte) (st' : Station) (h : st' ≠ st) : (s.route st d).link st' = s.link st' := by
  cases st <;> cases st' <;> first | rfl | exact absurd rfl h

@[simp] theorem State.setLink_link (s : State) (st : Station) (l : Link) : (s.setLink st l).link st = l := by cases st <;> rfl
@[simp] theorem State.setTx_tx (s : State) (st : Station) (x : TxContext) : (s.setTx st x).tx st = x := by cases st <;> rfl
@[simp] theorem State.setTx_rx (s : State) (st : Station) (x : TxContext) (st' : Station) : (s.setTx st x).rx st' = s.rx st' := by
  cases st <;> cases st' <;> rfl
@[simp] theorem State.setTx_txPacket (s : State) (st : Station) (x : TxContext) (st' : Station) : (s.setTx st x).txPacket st' = s.txPacket st' := by
  cases st <;> cases st' <;> rfl
@[simp] theorem State.setTx_result (s : State) (st : Station) (x : TxContext) (st' : Station) : (s.setTx st x).result st' = s.result st' := by
  cases st <;> cases st' <;> rfl
@[simp] theorem State.setRx_rx (s : State) (st : Station) (x : RxContext) : (s.setRx st x).rx st = x := by cases st <;> rfl
@[simp] theorem State.setRx_tx (s : State) (st : Station) (x : RxContext) (st' : Station) : (s.setRx st x).tx st' = s.tx st' := by
  cases st <;> cases st' <;> rfl
@[simp] theorem State.setRx_txPacket (s : State) (st : Station) (x : RxContext) (st' : Station) : (s.setRx st x).txPacket st' = s.txPacket st' := by
  cases st <;> cases st' <;> rfl
@[simp] theorem State.setRx_result (s : State) (st : Station) (x : RxContext) (st' : Station) : (s.setRx st x).result st' = s.result st' := by
  cases st <;> cases st' <;> rfl
@[simp] theorem State.setTxPacket_txPacket (s : State) (st : Station) (x : Packet) : (s.setTxPacket st x).txPacket st = x := by cases st <;> rfl
@[simp] theorem State.setTxPacket_tx (s : State) (st : Station) (x : Packet) (st' : Station) : (s.setTxPacket st x).tx st' = s.tx st' := by
  cases st <;> cases st' <;> rfl
@[simp] theorem State.setTxPacket_rx (s : State) (st : Station) (x : Packet) (st' : Station) : (s.setTxPacket st x).rx st' = s.rx st' := by
  cases st <;> cases st' <;> rfl
@[simp] theorem State.setTxPacket_result (s : State) (st : Station) (x : Packet) (st' : Station) : (s.setTxPacket st x).result st' = s.result st' := by
  cases st <;> cases st' <;> rfl
@[simp] theorem State.setResult_result (s : State) (st : Station) (x : ResultBuffer) : (s.setResult st x).result st = x := by cases st <;> rfl
@[simp] theorem State.setResult_tx (s : State) (st : Station) (x : ResultBuffer) (st' : Station) : (s.setResult st x).tx st' = s.tx st' := by
  cases st <;> cases st' <;> rfl
@[simp] theorem State.setResult_rx (s : State) (st : Station) (x : ResultBuffer) (st' : Station) : (s.setResult st x).rx st' = s.rx st' := by
  cases st <;> cases st' <;> rfl
@[simp] theorem State.setResult_txPacket (s : State) (st : Station) (x : ResultBuffer) (st' : Station) : (s.setResult st x).txPacket st' = s.txPacket st' := by
  cases st <;> cases st' <;> rfl
@[simp] theorem State.route_rx (s : State) (st : Station) (d : Byte) : (s.route st d).rx st = routeByte s.par.n (s.rx st) d := by
  cases st <;> rfl
@[simp] theorem State.route_tx (s : State) (st : Station) (d : Byte) (st' : Station) : (s.route st d).tx st' = s.tx st' := by
  cases st <;> cases st' <;> rfl
@[simp] theorem State.route_txPacket (s : State) (st : Station) (d : Byte) (st' : Station) : (s.route st d).txPacket st' = s.txPacket st' := by
  cases st <;> cases st' <;> rfl
@[simp] theorem State.route_result (s : State) (st : Station) (d : Byte) (st' : Station) : (s.route st d).result st' = s.result st' := by
  cases st <;> cases st' <;> rfl

/-! ## Queues -/

@[simp] theorem State.setQueue_ini (s : State) (q : Queue) (bs : List Byte) : (s.setQueue q bs).ini = s.ini := by cases q <;> rfl
@[simp] theorem State.qWrite_ini (s : State) (q : Queue) (b : Byte) : (s.qWrite q b).ini = s.ini := by cases q <;> rfl
@[simp] theorem State.qDrop_ini (s : State) (q : Queue) : (s.qDrop q).ini = s.ini := by cases q <;> rfl
@[simp] theorem State.setQueue_res (s : State) (q : Queue) (bs : List Byte) : (s.setQueue q bs).res = s.res := by cases q <;> rfl
@[simp] theorem State.qWrite_res (s : State) (q : Queue) (b : Byte) : (s.qWrite q b).res = s.res := by cases q <;> rfl
@[simp] theorem State.qDrop_res (s : State) (q : Queue) : (s.qDrop q).res = s.res := by cases q <;> rfl
@[simp] theorem State.setQueue_clock (s : State) (q : Queue) (bs : List Byte) : (s.setQueue q bs).clock = s.clock := by cases q <;> rfl
@[simp] theorem State.qWrite_clock (s : State) (q : Queue) (b : Byte) : (s.qWrite q b).clock = s.clock := by cases q <;> rfl
@[simp] theorem State.qDrop_clock (s : State) (q : Queue) : (s.qDrop q).clock = s.clock := by cases q <;> rfl
@[simp] theorem State.setQueue_cfg (s : State) (q : Queue) (bs : List Byte) : (s.setQueue q bs).cfg = s.cfg := by cases q <;> rfl
@[simp] theorem State.qWrite_cfg (s : State) (q : Queue) (b : Byte) : (s.qWrite q b).cfg = s.cfg := by cases q <;> rfl
@[simp] theorem State.qDrop_cfg (s : State) (q : Queue) : (s.qDrop q).cfg = s.cfg := by cases q <;> rfl
@[simp] theorem State.setQueue_par (s : State) (q : Queue) (bs : List Byte) : (s.setQueue q bs).par = s.par := by cases q <;> rfl
@[simp] theorem State.qWrite_par (s : State) (q : Queue) (b : Byte) : (s.qWrite q b).par = s.par := by cases q <;> rfl
@[simp] theorem State.qDrop_par (s : State) (q : Queue) : (s.qDrop q).par = s.par := by cases q <;> rfl
@[simp] theorem State.setQueue_prog (s : State) (q : Queue) (bs : List Byte) : (s.setQueue q bs).prog = s.prog := by cases q <;> rfl
@[simp] theorem State.qWrite_prog (s : State) (q : Queue) (b : Byte) : (s.qWrite q b).prog = s.prog := by cases q <;> rfl
@[simp] theorem State.qDrop_prog (s : State) (q : Queue) : (s.qDrop q).prog = s.prog := by cases q <;> rfl
@[simp] theorem State.setQueue_turn (s : State) (q : Queue) (bs : List Byte) : (s.setQueue q bs).turn = s.turn := by cases q <;> rfl
@[simp] theorem State.qWrite_turn (s : State) (q : Queue) (b : Byte) : (s.qWrite q b).turn = s.turn := by cases q <;> rfl
@[simp] theorem State.qDrop_turn (s : State) (q : Queue) : (s.qDrop q).turn = s.turn := by cases q <;> rfl
@[simp] theorem State.setQueue_free (s : State) (q : Queue) (bs : List Byte) : (s.setQueue q bs).free = s.free := by cases q <;> rfl
@[simp] theorem State.qWrite_free (s : State) (q : Queue) (b : Byte) : (s.qWrite q b).free = s.free := by cases q <;> rfl
@[simp] theorem State.qDrop_free (s : State) (q : Queue) : (s.qDrop q).free = s.free := by cases q <;> rfl
@[simp] theorem State.setQueue_host (s : State) (q : Queue) (bs : List Byte) : (s.setQueue q bs).host = s.host := by cases q <;> rfl
@[simp] theorem State.qWrite_host (s : State) (q : Queue) (b : Byte) : (s.qWrite q b).host = s.host := by cases q <;> rfl
@[simp] theorem State.qDrop_host (s : State) (q : Queue) : (s.qDrop q).host = s.host := by cases q <;> rfl
@[simp] theorem State.setQueue_queue (s : State) (q : Queue) (bs : List Byte) : (s.setQueue q bs).queue q = bs := by cases q <;> rfl
@[simp] theorem State.setQueue_capacity (s : State) (q : Queue) (bs : List Byte) (q' : Queue) : (s.setQueue q bs).capacity q' = s.capacity q' := by
  cases q <;> cases q' <;> rfl
theorem State.setQueue_queue_of_ne (s : State) (q : Queue) (bs : List Byte) (q' : Queue) (h : q' ≠ q) : (s.setQueue q bs).queue q' = s.queue q' := by
  cases q <;> cases q' <;> first | rfl | exact absurd rfl h
@[simp] theorem State.setQueue_link (s : State) (q : Queue) (bs : List Byte) (st : Station) : (s.setQueue q bs).link st = s.link st := by
  cases q <;> cases st <;> rfl
@[simp] theorem State.setQueue_tx (s : State) (q : Queue) (bs : List Byte) (st : Station) : (s.setQueue q bs).tx st = s.tx st := by
  cases q <;> cases st <;> rfl
@[simp] theorem State.setQueue_rx (s : State) (q : Queue) (bs : List Byte) (st : Station) : (s.setQueue q bs).rx st = s.rx st := by
  cases q <;> cases st <;> rfl
@[simp] theorem State.setQueue_txPacket (s : State) (q : Queue) (bs : List Byte) (st : Station) : (s.setQueue q bs).txPacket st = s.txPacket st := by
  cases q <;> cases st <;> rfl
@[simp] theorem State.setQueue_result (s : State) (q : Queue) (bs : List Byte) (st : Station) : (s.setQueue q bs).result st = s.result st := by
  cases q <;> cases st <;> rfl
@[simp] theorem State.qWrite_queue (s : State) (q : Queue) (b : Byte) : (s.qWrite q b).queue q = s.queue q ++ [b] := by cases q <;> rfl
@[simp] theorem State.qWrite_capacity (s : State) (q : Queue) (b : Byte) (q' : Queue) : (s.qWrite q b).capacity q' = s.capacity q' := by
  cases q <;> cases q' <;> rfl
theorem State.qWrite_queue_of_ne (s : State) (q : Queue) (b : Byte) (q' : Queue) (h : q' ≠ q) : (s.qWrite q b).queue q' = s.queue q' := by
  cases q <;> cases q' <;> first | rfl | exact absurd rfl h
@[simp] theorem State.qWrite_link (s : State) (q : Queue) (b : Byte) (st : Station) : (s.qWrite q b).link st = s.link st := by
  cases q <;> cases st <;> rfl
@[simp] theorem State.qWrite_tx (s : State) (q : Queue) (b : Byte) (st : Station) : (s.qWrite q b).tx st = s.tx st := by
  cases q <;> cases st <;> rfl
@[simp] theorem State.qWrite_rx (s : State) (q : Queue) (b : Byte) (st : Station) : (s.qWrite q b).rx st = s.rx st := by
  cases q <;> cases st <;> rfl
@[simp] theorem State.qWrite_txPacket (s : State) (q : Queue) (b : Byte) (st : Station) : (s.qWrite q b).txPacket st = s.txPacket st := by
  cases q <;> cases st <;> rfl
@[simp] theorem State.qWrite_result (s : State) (q : Queue) (b : Byte) (st : Station) : (s.qWrite q b).result st = s.result st := by
  cases q <;> cases st <;> rfl
@[simp] theorem State.qDrop_queue (s : State) (q : Queue) : (s.qDrop q).queue q = (s.queue q).tail := by cases q <;> rfl
@[simp] theorem State.qDrop_capacity (s : State) (q : Queue) (q' : Queue) : (s.qDrop q).capacity q' = s.capacity q' := by
  cases q <;> cases q' <;> rfl
theorem State.qDrop_queue_of_ne (s : State) (q : Queue) (q' : Queue) (h : q' ≠ q) : (s.qDrop q).queue q' = s.queue q' := by
  cases q <;> cases q' <;> first | rfl | exact absurd rfl h
@[simp] theorem State.qDrop_link (s : State) (q : Queue) (st : Station) : (s.qDrop q).link st = s.link st := by
  cases q <;> cases st <;> rfl
@[simp] theorem State.qDrop_tx (s : State) (q : Queue) (st : Station) : (s.qDrop q).tx st = s.tx st := by
  cases q <;> cases st <;> rfl
@[simp] theorem State.qDrop_rx (s : State) (q : Queue) (st : Station) : (s.qDrop q).rx st = s.rx st := by
  cases q <;> cases st <;> rfl
@[simp] theorem State.qDrop_txPacket (s : State) (q : Queue) (st : Station) : (s.qDrop q).txPacket st = s.txPacket st := by
  cases q <;> cases st <;> rfl
@[simp] theorem State.qDrop_result (s : State) (q : Queue) (st : Station) : (s.qDrop q).result st = s.result st := by
  cases q <;> cases st <;> rfl

/-! ## What the host is told -/

@[simp] theorem State.report_ini (s : State) (r : Ret) (c : Option Condition) : (s.report r c).ini = s.ini := rfl
@[simp] theorem State.report_res (s : State) (r : Ret) (c : Option Condition) : (s.report r c).res = s.res := rfl
@[simp] theorem State.report_qa (s : State) (r : Ret) (c : Option Condition) : (s.report r c).qa = s.qa := rfl
@[simp] theorem State.report_qb (s : State) (r : Ret) (c : Option Condition) : (s.report r c).qb = s.qb := rfl
@[simp] theorem State.report_clock (s : State) (r : Ret) (c : Option Condition) : (s.report r c).clock = s.clock := rfl
@[simp] theorem State.report_cfg (s : State) (r : Ret) (c : Option Condition) : (s.report r c).cfg = s.cfg := rfl
@[simp] theorem State.report_par (s : State) (r : Ret) (c : Option Condition) : (s.report r c).par = s.par := rfl
@[simp] theorem State.report_prog (s : State) (r : Ret) (c : Option Condition) : (s.report r c).prog = s.prog := rfl
@[simp] theorem State.report_turn (s : State) (r : Ret) (c : Option Condition) : (s.report r c).turn = s.turn := rfl
@[simp] theorem State.report_free (s : State) (r : Ret) (c : Option Condition) : (s.report r c).free = s.free := rfl
@[simp] theorem State.report_link (s : State) (r : Ret) (c : Option Condition) (st : Station) : (s.report r c).link st = s.link st := by cases st <;> rfl
@[simp] theorem State.report_tx (s : State) (r : Ret) (c : Option Condition) (st : Station) : (s.report r c).tx st = s.tx st := by cases st <;> rfl
@[simp] theorem State.report_rx (s : State) (r : Ret) (c : Option Condition) (st : Station) : (s.report r c).rx st = s.rx st := by cases st <;> rfl
@[simp] theorem State.report_txPacket (s : State) (r : Ret) (c : Option Condition) (st : Station) : (s.report r c).txPacket st = s.txPacket st := by cases st <;> rfl
@[simp] theorem State.report_result (s : State) (r : Ret) (c : Option Condition) (st : Station) : (s.report r c).result st = s.result st := by cases st <;> rfl
@[simp] theorem State.report_queue (s : State) (r : Ret) (c : Option Condition) (q : Queue) : (s.report r c).queue q = s.queue q := by cases q <;> rfl
@[simp] theorem State.report_capacity (s : State) (r : Ret) (c : Option Condition) (q : Queue) : (s.report r c).capacity q = s.capacity q := by cases q <;> rfl
@[simp] theorem State.report_ready (s : State) (r : Ret) (c : Option Condition) : (s.report r c).host.ready = s.host.ready := rfl
@[simp] theorem State.quiet_ini (s : State)  : (s.quiet).ini = s.ini := rfl
@[simp] theorem State.quiet_res (s : State)  : (s.quiet).res = s.res := rfl
@[simp] theorem State.quiet_qa (s : State)  : (s.quiet).qa = s.qa := rfl
@[simp] theorem State.quiet_qb (s : State)  : (s.quiet).qb = s.qb := rfl
@[simp] theorem State.quiet_clock (s : State)  : (s.quiet).clock = s.clock := rfl
@[simp] theorem State.quiet_cfg (s : State)  : (s.quiet).cfg = s.cfg := rfl
@[simp] theorem State.quiet_par (s : State)  : (s.quiet).par = s.par := rfl
@[simp] theorem State.quiet_prog (s : State)  : (s.quiet).prog = s.prog := rfl
@[simp] theorem State.quiet_turn (s : State)  : (s.quiet).turn = s.turn := rfl
@[simp] theorem State.quiet_free (s : State)  : (s.quiet).free = s.free := rfl
@[simp] theorem State.quiet_link (s : State)  (st : Station) : (s.quiet).link st = s.link st := by cases st <;> rfl
@[simp] theorem State.quiet_tx (s : State)  (st : Station) : (s.quiet).tx st = s.tx st := by cases st <;> rfl
@[simp] theorem State.quiet_rx (s : State)  (st : Station) : (s.quiet).rx st = s.rx st := by cases st <;> rfl
@[simp] theorem State.quiet_txPacket (s : State)  (st : Station) : (s.quiet).txPacket st = s.txPacket st := by cases st <;> rfl
@[simp] theorem State.quiet_result (s : State)  (st : Station) : (s.quiet).result st = s.result st := by cases st <;> rfl
@[simp] theorem State.quiet_queue (s : State)  (q : Queue) : (s.quiet).queue q = s.queue q := by cases q <;> rfl
@[simp] theorem State.quiet_capacity (s : State)  (q : Queue) : (s.quiet).capacity q = s.capacity q := by cases q <;> rfl
@[simp] theorem State.quiet_ready (s : State)  : (s.quiet).host.ready = s.host.ready := rfl
@[simp] theorem State.report_ret (s : State) (r : Ret) (c : Option Condition) : (s.report r c).host.ret = r := rfl
@[simp] theorem State.report_label (s : State) (r : Ret) (c : Option Condition) : (s.report r c).host.label = c := rfl
@[simp] theorem State.quiet_ret (s : State) : s.quiet.host.ret = .nothing := rfl
@[simp] theorem State.quiet_label (s : State) : s.quiet.host.label = none := rfl

/-! ## The FSM registers and the deadline -/

@[simp] theorem State.setIState_res (s : State) (x : IState) : (s.setIState x).res = s.res := rfl
@[simp] theorem State.setIState_qa (s : State) (x : IState) : (s.setIState x).qa = s.qa := rfl
@[simp] theorem State.setIState_qb (s : State) (x : IState) : (s.setIState x).qb = s.qb := rfl
@[simp] theorem State.setIState_clock (s : State) (x : IState) : (s.setIState x).clock = s.clock := rfl
@[simp] theorem State.setIState_cfg (s : State) (x : IState) : (s.setIState x).cfg = s.cfg := rfl
@[simp] theorem State.setIState_par (s : State) (x : IState) : (s.setIState x).par = s.par := rfl
@[simp] theorem State.setIState_prog (s : State) (x : IState) : (s.setIState x).prog = s.prog := rfl
@[simp] theorem State.setIState_turn (s : State) (x : IState) : (s.setIState x).turn = s.turn := rfl
@[simp] theorem State.setIState_free (s : State) (x : IState) : (s.setIState x).free = s.free := rfl
@[simp] theorem State.setIState_host (s : State) (x : IState) : (s.setIState x).host = s.host := rfl
@[simp] theorem State.setIState_ini_link (s : State) (x : IState) : (s.setIState x).ini.link = s.ini.link := rfl
@[simp] theorem State.disarm_res (s : State)  : (s.disarm).res = s.res := rfl
@[simp] theorem State.disarm_qa (s : State)  : (s.disarm).qa = s.qa := rfl
@[simp] theorem State.disarm_qb (s : State)  : (s.disarm).qb = s.qb := rfl
@[simp] theorem State.disarm_clock (s : State)  : (s.disarm).clock = s.clock := rfl
@[simp] theorem State.disarm_cfg (s : State)  : (s.disarm).cfg = s.cfg := rfl
@[simp] theorem State.disarm_par (s : State)  : (s.disarm).par = s.par := rfl
@[simp] theorem State.disarm_prog (s : State)  : (s.disarm).prog = s.prog := rfl
@[simp] theorem State.disarm_turn (s : State)  : (s.disarm).turn = s.turn := rfl
@[simp] theorem State.disarm_free (s : State)  : (s.disarm).free = s.free := rfl
@[simp] theorem State.disarm_host (s : State)  : (s.disarm).host = s.host := rfl
@[simp] theorem State.disarm_ini_link (s : State)  : (s.disarm).ini.link = s.ini.link := rfl
@[simp] theorem State.setRState_ini (s : State) (x : RState) : (s.setRState x).ini = s.ini := rfl
@[simp] theorem State.setRState_qa (s : State) (x : RState) : (s.setRState x).qa = s.qa := rfl
@[simp] theorem State.setRState_qb (s : State) (x : RState) : (s.setRState x).qb = s.qb := rfl
@[simp] theorem State.setRState_clock (s : State) (x : RState) : (s.setRState x).clock = s.clock := rfl
@[simp] theorem State.setRState_cfg (s : State) (x : RState) : (s.setRState x).cfg = s.cfg := rfl
@[simp] theorem State.setRState_par (s : State) (x : RState) : (s.setRState x).par = s.par := rfl
@[simp] theorem State.setRState_prog (s : State) (x : RState) : (s.setRState x).prog = s.prog := rfl
@[simp] theorem State.setRState_turn (s : State) (x : RState) : (s.setRState x).turn = s.turn := rfl
@[simp] theorem State.setRState_free (s : State) (x : RState) : (s.setRState x).free = s.free := rfl
@[simp] theorem State.setRState_host (s : State) (x : RState) : (s.setRState x).host = s.host := rfl
@[simp] theorem State.setRState_res_link (s : State) (x : RState) : (s.setRState x).res.link = s.res.link := rfl
@[simp] theorem State.setIState_state (s : State) (x : IState) : (s.setIState x).ini.state = x := rfl
@[simp] theorem State.setIState_deadline (s : State) (x : IState) : (s.setIState x).ini.deadline = s.ini.deadline := rfl
@[simp] theorem State.setRState_state (s : State) (x : RState) : (s.setRState x).res.state = x := rfl
@[simp] theorem State.disarm_state (s : State) : s.disarm.ini.state = s.ini.state := rfl
@[simp] theorem State.disarm_armed (s : State) : s.disarm.ini.deadline.armed = false := rfl

end Sys2Proof.Machine
end

