-- ==== Sys2Proof/Laws/Codec.lean ====
section
/-! SUPPORT. What the shared operations of the two codecs can do, said once: `Route`, `ValidateFrame`, a byte handed to a receiver,
`DecodeStep`, `Advance`, `EncodeStep`. -/

namespace Sys2Proof.Machine

/-! ## Route -/

@[simp] theorem routeByte_started (n : Nat) (rx : RxContext) (d : Byte) : (routeByte n rx d).started = rx.started := by
  unfold routeByte; dsimp only; split_ifs <;> rfl

@[simp] theorem routeByte_assembled (n : Nat) (rx : RxContext) (d : Byte) :
    (routeByte n rx d).assembled = rx.assembled := by
  unfold routeByte; dsimp only; split_ifs <;> rfl

@[simp] theorem routeByte_valid (n : Nat) (rx : RxContext) (d : Byte) : (routeByte n rx d).valid = rx.valid := by
  unfold routeByte; dsimp only; split_ifs <;> rfl

@[simp] theorem routeByte_unescPending (n : Nat) (rx : RxContext) (d : Byte) :
    (routeByte n rx d).unescPending = rx.unescPending := by
  unfold routeByte; dsimp only; split_ifs <;> rfl

@[simp] theorem routeByte_pos (n : Nat) (rx : RxContext) (d : Byte) :
    (routeByte n rx d).pos = if rx.pos ≤ n + 4 then rx.pos + 1 else rx.pos := by
  unfold routeByte; dsimp only

@[simp] theorem routeByte_length (n : Nat) (rx : RxContext) (d : Byte) :
    (routeByte n rx d).packet.payload.length = rx.packet.payload.length := by
  unfold routeByte; dsimp only; split_ifs <;> simp

/-- Position 0 takes the address. -/
theorem routeByte_address {n : Nat} {rx : RxContext} (h : rx.pos = 0) (d : Byte) :
    routeByte n rx d = { rx with packet := { rx.packet with address := d }, pos := 1 } := by
  simp [routeByte, h]

/-- Position 1 takes the control byte. -/
theorem routeByte_control {n : Nat} {rx : RxContext} (h : rx.pos = 1) (d : Byte) :
    routeByte n rx d = { rx with packet := { rx.packet with control := d }, pos := 2 } := by
  simp [routeByte, h]

/-- Positions 2 to `n + 1` take the payload. -/
theorem routeByte_payload {n : Nat} {rx : RxContext} (h : 2 ≤ rx.pos) (h' : rx.pos ≤ n + 1) (d : Byte) :
    routeByte n rx d =
      { rx with packet := { rx.packet with payload := rx.packet.payload.set (rx.pos - 2) d }, pos := rx.pos + 1 } := by
  have h0 : rx.pos ≠ 0 := by omega
  have h1 : rx.pos ≠ 1 := by omega
  have h4 : rx.pos ≤ n + 4 := by omega
  simp [routeByte, h0, h1, h', h4]

/-- Position `n + 2` takes the first check byte. -/
theorem routeByte_fcsFirst {n : Nat} {rx : RxContext} (h : rx.pos = n + 2) (d : Byte) :
    routeByte n rx d = { rx with fcsFirst := d, pos := n + 3 } := by
  simp [routeByte, h]

/-- Position `n + 3` takes the second check byte. -/
theorem routeByte_fcsSecond {n : Nat} {rx : RxContext} (h : rx.pos = n + 3) (d : Byte) :
    routeByte n rx d = { rx with fcsSecond := d, pos := n + 4 } := by
  simp [routeByte, h]

/-- Position `n + 4` stores nothing and counts once more. -/
theorem routeByte_overflow {n : Nat} {rx : RxContext} (h : rx.pos = n + 4) (d : Byte) :
    routeByte n rx d = { rx with pos := n + 5 } := by
  simp [routeByte, h]

/-- Positions above `n + 4` store and count nothing. -/
theorem routeByte_saturated {n : Nat} {rx : RxContext} (h : n + 4 < rx.pos) (d : Byte) : routeByte n rx d = rx := by
  have h0 : rx.pos ≠ 0 := by omega
  have h1 : rx.pos ≠ 1 := by omega
  have h2 : ¬rx.pos ≤ n + 1 := by omega
  have h3 : rx.pos ≠ n + 2 := by omega
  have h4 : rx.pos ≠ n + 3 := by omega
  have h5 : ¬rx.pos ≤ n + 4 := by omega
  simp [routeByte, h0, h1, h2, h3, h4, h5]

/-! ## ValidateFrame -/

/-- All five requirements hold exactly when no label is raised. -/
theorem validationLabel_eq_none {n : Nat} {rx : RxContext} {e : Byte} :
    validationLabel n rx e = none ↔
      rx.assembled = true ∧ rx.pos = n + 4 ∧ rx.packet.address = e ∧ knownCommand rx.packet.control = true ∧
        fcsMatches rx = true := by
  unfold validationLabel
  cases rx.assembled <;> cases knownCommand rx.packet.control <;> cases fcsMatches rx <;>
    by_cases h1 : rx.pos = n + 4 <;> by_cases h2 : rx.packet.address = e <;> simp [h1, h2]

/-- `ValidateFrame` writes nothing and raises a label, writes nothing since the frame is valid already, or copies the packet
to the result buffer and marks the frame valid. -/
theorem validateFrame_cases (st : Station) (s : State) :
    (∃ c, validationLabel s.par.n (s.rx st) st.address = some c ∧ validateFrame st s = s.report .nothing (some c)) ∨
      (validationLabel s.par.n (s.rx st) st.address = none ∧ (s.rx st).valid = true ∧ validateFrame st s = s.quiet) ∨
      (validationLabel s.par.n (s.rx st) st.address = none ∧ (s.rx st).valid = false ∧
        validateFrame st s =
          ((s.setResult st ⟨(s.rx st).packet.control, (s.rx st).packet.payload⟩).setRx st
            { s.rx st with valid := true }).quiet) := by
  unfold validateFrame
  cases h : validationLabel s.par.n (s.rx st) st.address with
  | some c => exact .inl ⟨c, rfl, rfl⟩
  | none => cases hv : (s.rx st).valid <;> simp

/-- The order in which a receive context and a result buffer are written is of no account. -/
theorem State.setResult_setRx (s : State) (st : Station) (r : ResultBuffer) (x : RxContext) :
    (s.setResult st r).setRx st x = (s.setRx st x).setResult st r := by cases st <;> rfl

@[simp] theorem State.setRx_setRx (s : State) (st : Station) (x y : RxContext) :
    (s.setRx st x).setRx st y = s.setRx st y := by cases st <;> rfl

@[simp] theorem State.setTx_setTx (s : State) (st : Station) (x y : TxContext) :
    (s.setTx st x).setTx st y = s.setTx st y := by cases st <;> rfl

@[simp] theorem State.setResult_setResult (s : State) (st : Station) (x y : ResultBuffer) :
    (s.setResult st x).setResult st y = s.setResult st y := by cases st <;> rfl

@[simp] theorem State.setRx_self (s : State) (st : Station) : s.setRx st (s.rx st) = s := by cases st <;> rfl
@[simp] theorem State.setTx_self (s : State) (st : Station) : s.setTx st (s.tx st) = s := by cases st <;> rfl
@[simp] theorem State.setResult_self (s : State) (st : Station) : s.setResult st (s.result st) = s := by
  cases st <;> rfl
@[simp] theorem State.setRx_setResult_self (s : State) (st : Station) (x : RxContext) :
    (s.setRx st x).setResult st (s.result st) = s.setRx st x := by cases st <;> rfl
@[simp] theorem State.setQueue_self (s : State) (q : Queue) : s.setQueue q (s.queue q) = s := by cases q <;> rfl

@[simp] theorem State.report_setRx (s : State) (st : Station) (x : RxContext) (r : Ret) (l : Option Condition) :
    (s.report r l).setRx st x = (s.setRx st x).report r l := by cases st <;> rfl
@[simp] theorem State.report_setResult (s : State) (st : Station) (x : ResultBuffer) (r : Ret) (l : Option Condition) :
    (s.report r l).setResult st x = (s.setResult st x).report r l := by cases st <;> rfl
@[simp] theorem State.report_report (s : State) (r r' : Ret) (l l' : Option Condition) :
    (s.report r l).report r' l' = s.report r' l' := rfl

/-! ## A byte at the receiver -/

/-- What the byte does to a receive context, before a closing flag is validated. -/
def rxAfter (n : Nat) (rx : RxContext) (b : Byte) : RxContext :=
  match classify rx b with
  | .unescape => routeByte n { rx with unescPending := false } (b ^^^ Config.xorMask)
  | .escape => { rx with unescPending := true }
  | .flagOpen => { rx with pos := 0, started := true }
  | .flagClose => { rx with assembled := true }
  | .data => routeByte n rx b

/-- A byte writes the station's receive context as `rxAfter` says; a closing flag is followed by `ValidateFrame`. -/
theorem consume_cases (st : Station) (b : Byte) (s : State) :
    (classify (s.rx st) b = .flagClose ∧
        consume st b s = validateFrame st (s.setRx st { s.rx st with assembled := true })) ∨
      (classify (s.rx st) b ≠ .flagClose ∧ consume st b s = (s.setRx st (rxAfter s.par.n (s.rx st) b)).quiet) := by
  unfold consume consumeAs rxAfter
  cases h : classify (s.rx st) b <;> simp [State.route]

/-- The classes, as conditions on the context and the byte. -/
theorem classify_cases (rx : RxContext) (b : Byte) :
    (rx.unescPending = true ∧ classify rx b = .unescape) ∨
      (rx.unescPending = false ∧ b = Config.escape ∧ classify rx b = .escape) ∨
      (rx.unescPending = false ∧ b = Config.flag ∧ rx.started = false ∧ classify rx b = .flagOpen) ∨
      (rx.unescPending = false ∧ b = Config.flag ∧ rx.started = true ∧ classify rx b = .flagClose) ∨
      (rx.unescPending = false ∧ b ≠ Config.escape ∧ b ≠ Config.flag ∧ classify rx b = .data) := by
  unfold classify
  cases rx.unescPending
  · by_cases h1 : b = Config.escape
    · simp [h1]
    · by_cases h2 : b = Config.flag
      · have h3 : ¬Config.flag = Config.escape := by decide
        cases rx.started <;> simp [h2, h3]
      · simp [h1, h2]
  · simp

/-- A consumed byte touches the station's receive context, its result buffer and the host's port, and nothing else. -/
theorem consume_shape (st : Station) (b : Byte) (s : State) :
    ∃ rx result label, consume st b s = ((s.setRx st rx).setResult st result).report .nothing label := by
  rcases consume_cases st b s with ⟨-, h⟩ | ⟨-, h⟩
  · rw [h]
    rcases validateFrame_cases st (s.setRx st { s.rx st with assembled := true }) with
      ⟨c, -, h⟩ | ⟨-, -, h⟩ | ⟨-, -, h⟩ <;> rw [h]
    · exact ⟨_, s.result st, some c, by rw [State.setRx_setResult_self]⟩
    · exact ⟨_, s.result st, none, by rw [State.setRx_setResult_self]; rfl⟩
    · exact ⟨_, _, none, by rw [State.setResult_setRx, State.setRx_setRx]; rfl⟩
  · exact ⟨_, s.result st, none, by rw [h, State.setRx_setResult_self]; rfl⟩

theorem deliver_shape (st : Station) (b : Byte) (s : State) :
    ∃ rx result label, deliver st b s = ((s.setRx st rx).setResult st result).report .nothing label := by
  unfold deliver
  split_ifs
  · exact ⟨s.rx st, s.result st, none, by simp [State.quiet]⟩
  · exact consume_shape st b s

/-- The same of any number of bytes. -/
theorem deliverAll_shape (st : Station) (bs : List Byte) (s : State) :
    ∃ rx result ret label, deliverAll st bs s = ((s.setRx st rx).setResult st result).report ret label := by
  induction bs generalizing s with
  | nil => exact ⟨s.rx st, s.result st, s.host.ret, s.host.label, by simp [deliverAll]; rfl⟩
  | cons b bs ih =>
    obtain ⟨rx, result, label, h⟩ := deliver_shape st b s
    obtain ⟨rx', result', ret', label', h'⟩ := ih (deliver st b s)
    refine ⟨rx', result', ret', label', ?_⟩
    rw [deliverAll, h', h]
    cases st <;> rfl

theorem deliverAll_append (st : Station) (bs cs : List Byte) (s : State) :
    deliverAll st (bs ++ cs) s = deliverAll st cs (deliverAll st bs s) := by
  induction bs generalizing s with
  | nil => rfl
  | cons b bs ih => exact ih _

/-! ## DecodeStep -/

/-- `DecodeStep` does nothing to a closed context, raises Backpressure on an empty queue, and otherwise takes the oldest byte
off the queue and consumes it. -/
theorem decodeStep_cases (st : Station) (s : State) :
    ((s.rx st).assembled = true ∧ decodeStep st s = s.quiet) ∨
      ((s.rx st).assembled = false ∧ s.queue st.inQueue = [] ∧
        decodeStep st s = s.report .nothing (some .backpressure)) ∨
      (∃ b rest, (s.rx st).assembled = false ∧ s.queue st.inQueue = b :: rest ∧
        decodeStep st s = consume st b (s.setQueue st.inQueue rest)) := by
  unfold decodeStep
  cases ha : (s.rx st).assembled
  · cases hq : s.queue st.inQueue with
    | nil => simp
    | cons b rest => simp [State.qDrop, hq]
  · simp

/-- `DecodeStep` touches the station's inbound queue, receive context, result buffer and the host's port, and nothing else;
it takes at most the oldest byte off the queue. -/
theorem decodeStep_shape (st : Station) (s : State) :
    ∃ bs rx result label,
      decodeStep st s = (((s.setQueue st.inQueue bs).setRx st rx).setResult st result).report .nothing label ∧
        (bs = s.queue st.inQueue ∨ ∃ b, s.queue st.inQueue = b :: bs) := by
  rcases decodeStep_cases st s with ⟨-, h⟩ | ⟨-, -, h⟩ | ⟨b, rest, -, hq, h⟩ <;> rw [h]
  · exact ⟨_, s.rx st, s.result st, none, by simp [State.quiet], .inl rfl⟩
  · exact ⟨_, s.rx st, s.result st, some .backpressure, by simp, .inl rfl⟩
  · obtain ⟨rx, result, label, h'⟩ := consume_shape st b (s.setQueue st.inQueue rest)
    exact ⟨rest, rx, result, label, h', .inr ⟨b, hq⟩⟩

/-! ## EncodeStep -/

@[simp] theorem advance_escPending (n : Nat) (tx : TxContext) : (advance n tx).escPending = tx.escPending := by
  unfold advance; cases h : tx.stage <;> simp

@[simp] theorem advance_curByte (n : Nat) (tx : TxContext) : (advance n tx).curByte = tx.curByte := by
  unfold advance; cases h : tx.stage <;> simp

/-- `EncodeStep` answers a next state with nothing changed, with one byte written to the outbound queue and the transmit
context moved, or faults on a cursor outside the payload array. -/
theorem encodeStep_cases (st : Station) (s : State) :
    (∃ label, encodeStep st s = .next (s.report .nothing label) ∧
        ((s.tx st).stage = .done ∨ s.capacity st.outQueue ≤ (s.queue st.outQueue).length)) ∨
      (∃ b tx, encodeStep st s = .next (s.emit st b tx) ∧ (s.tx st).stage ≠ .done ∧
        (s.queue st.outQueue).length < s.capacity st.outQueue ∧
        (((s.tx st).escPending = true ∧ b = (s.tx st).curByte ^^^ Config.xorMask ∧
            tx = advance s.par.n { s.tx st with escPending := false }) ∨
          ((s.tx st).escPending = false ∧ (s.tx st).stage = .startFlag ∧ b = Config.flag ∧
            tx = { s.tx st with curByte := Config.flag, stage := .address }) ∨
          ((s.tx st).escPending = false ∧ (s.tx st).stage = .endFlag ∧ b = Config.flag ∧
            tx = { s.tx st with curByte := Config.flag, stage := .done }) ∨
          (∃ d, (s.tx st).escPending = false ∧ logicalByte (s.tx st) (s.txPacket st) = some d ∧
            needsStuffing d = true ∧ b = Config.escape ∧
            tx = { s.tx st with curByte := d, escPending := true }) ∨
          ((s.tx st).escPending = false ∧ logicalByte (s.tx st) (s.txPacket st) = some b ∧ needsStuffing b = false ∧
            tx = advance s.par.n { s.tx st with curByte := b }))) ∨
      (encodeStep st s = .fault .payloadIndex ∧ (s.tx st).stage = .payload ∧ (s.tx st).escPending = false ∧
        (s.txPacket st).payload.length ≤ (s.tx st).cursor ∧
        (s.queue st.outQueue).length < s.capacity st.outQueue) := by
  have stageCase : (s.tx st).stage ≠ .startFlag → (s.tx st).stage ≠ .endFlag → (s.tx st).stage ≠ .done →
      (s.tx st).escPending = false → encodeStep st s = sendStage st s →
      (∃ b tx, encodeStep st s = .next (s.emit st b tx) ∧
        ((∃ d, logicalByte (s.tx st) (s.txPacket st) = some d ∧ needsStuffing d = true ∧ b = Config.escape ∧
            tx = { s.tx st with curByte := d, escPending := true }) ∨
          (logicalByte (s.tx st) (s.txPacket st) = some b ∧ needsStuffing b = false ∧
            tx = advance s.par.n { s.tx st with curByte := b }))) ∨
      (encodeStep st s = .fault .payloadIndex ∧ (s.tx st).stage = .payload ∧
        (s.txPacket st).payload.length ≤ (s.tx st).cursor) := by
    intro h1 h2 h3 _ he
    rw [he]; unfold sendStage
    cases hl : logicalByte (s.tx st) (s.txPacket st) with
    | some d =>
      cases hn : needsStuffing d
      · exact .inl ⟨d, _, by simp only [sendLogical, hn]; rfl, .inr ⟨by simp, hn, rfl⟩⟩
      · exact .inl ⟨_, _, by simp only [sendLogical, hn]; rfl, .inl ⟨d, rfl, hn, rfl, rfl⟩⟩
    | none =>
      refine .inr ⟨rfl, ?_⟩
      unfold logicalByte at hl
      cases hs : (s.tx st).stage <;> simp_all
  by_cases hd : (s.tx st).stage = .done
  · exact .inl ⟨none, by simp [encodeStep, selectEncode, hd, State.quiet], .inl hd⟩
  by_cases hq : s.capacity st.outQueue ≤ (s.queue st.outQueue).length
  · exact .inl ⟨_, by simp [encodeStep, selectEncode, hd, queueFull, hq]; rfl, .inr hq⟩
  have hq' : (s.queue st.outQueue).length < s.capacity st.outQueue := by omega
  cases he : (s.tx st).escPending
  · cases hs : (s.tx st).stage with
    | startFlag =>
      exact .inr (.inl ⟨_, _, by simp [encodeStep, selectEncode, queueFull, hq, he, hs, sendFlag], by simp, hq',
        .inr (.inl ⟨rfl, rfl, rfl, rfl⟩)⟩)
    | endFlag =>
      exact .inr (.inl ⟨_, _, by simp [encodeStep, selectEncode, queueFull, hq, he, hs, sendFlag], by simp, hq',
        .inr (.inr (.inl ⟨rfl, rfl, rfl, rfl⟩))⟩)
    | done => exact absurd hs hd
    | address | control | payload | fcsHigh | fcsLow =>
      rcases stageCase (by simp [hs]) (by simp [hs]) hd he
          (by simp [encodeStep, selectEncode, queueFull, hq, he, hs]) with
        ⟨b, tx, h1, ⟨d, h2⟩ | h2⟩ | ⟨h1, h2, h3⟩
      · exact .inr (.inl ⟨b, tx, h1, by simp, hq', .inr (.inr (.inr (.inl ⟨d, rfl, h2⟩)))⟩)
      · exact .inr (.inl ⟨b, tx, h1, by simp, hq', .inr (.inr (.inr (.inr ⟨rfl, h2⟩)))⟩)
      · first
        | (exfalso; rw [hs] at h2; cases h2; done)
        | exact .inr (.inr ⟨h1, rfl, rfl, h3, hq'⟩)
  · exact .inr (.inl ⟨_, _, by simp [encodeStep, selectEncode, hd, queueFull, hq, he, sendEscape2], hd, hq',
      .inl ⟨rfl, rfl, rfl⟩⟩)

/-- `EncodeStep` completes unless a payload byte is wanted from outside the payload array. -/
theorem encodeStep_completes (st : Station) (s : State)
    (h : (s.tx st).stage = .payload → (s.tx st).cursor < (s.txPacket st).payload.length) :
    ∃ e, encodeStep st s = .next e := by
  rcases encodeStep_cases st s with ⟨l, h', -⟩ | ⟨b, tx, h', -⟩ | ⟨-, hp, -, hc, -⟩
  · exact ⟨_, h'⟩
  · exact ⟨_, h'⟩
  · exact absurd (h hp) (by omega)

/-- `EncodeStep` touches the station's outbound queue, transmit context and the host's port, and nothing else; it appends at
most one byte, where there is room. -/
theorem encodeStep_shape {st : Station} {s e : State} (h : encodeStep st s = .next e) :
    ∃ sent tx label,
      e = ((s.setQueue st.outQueue (s.queue st.outQueue ++ sent)).setTx st tx).report .nothing label ∧
        (sent = [] ∨ ∃ b, sent = [b] ∧ (s.queue st.outQueue).length < s.capacity st.outQueue) := by
  rcases encodeStep_cases st s with ⟨l, h', -⟩ | ⟨b, tx, h', -, hq, -⟩ | ⟨h', -⟩
  · obtain rfl : s.report .nothing l = e := by simpa [h'] using h
    exact ⟨[], s.tx st, l, by simp, .inl rfl⟩
  · obtain rfl : s.emit st b tx = e := by simpa [h'] using h
    exact ⟨[b], tx, none, by simp [State.emit, State.qWrite, State.quiet], .inr ⟨b, rfl, hq⟩⟩
  · simp [h'] at h

end Sys2Proof.Machine
end

