-- ==== Sys2Proof/Laws/Encoding.lean ====
section
/-! SUPPORT. What the encodings of operands, of predicates and of whole frames give back when they are read. -/

namespace Sys2Proof

/-! ## Operands -/

@[simp] theorem decodeStation_code (st : Station) : decodeStation st.code = some st := by cases st <;> rfl
@[simp] theorem decodeQueue_code (q : Queue) : decodeQueue q.code = some q := by cases q <;> rfl
@[simp] theorem decodeParamName_code (p : ParamName) : decodeParamName p.code = some p := by cases p <;> rfl
@[simp] theorem decodeBool_encodeBool (b : Bool) : decodeBool (encodeBool b) = some b := by cases b <;> rfl
@[simp] theorem decodeRegName_code (r : RegName) : decodeRegName r.code = some r := by cases r <;> decide

/-- A number is read back from its groups, with what follows them, when the bound leaves room for all of them. -/
theorem decodeNat_natGroups {k v : Nat} (h : v < 128 ^ (k + 1)) (rest : List Byte) :
    decodeNat (natGroups k v ++ rest) = some (v, rest) := by
  induction k generalizing v with
  | zero =>
    have e : v % 256 = v := Nat.mod_eq_of_lt (by omega)
    have hv : v < 128 := by omega
    simp [natGroups, decodeNat, e, hv]
  | succ k ih =>
    unfold natGroups
    split_ifs with hv
    · have e : v % 256 = v := Nat.mod_eq_of_lt (by omega)
      simp [decodeNat, e, hv]
    · have e : (128 + v % 128) % 256 = 128 + v % 128 := Nat.mod_eq_of_lt (by omega)
      have hd : v / 128 < 128 ^ (k + 1) := Nat.div_lt_of_lt_mul (by rw [← pow_succ']; exact h)
      have hm : v % 128 + 128 * (v / 128) = v := Nat.mod_add_div v 128
      simp [decodeNat, e, ih hd, hm]

/-- Every number is read back from its bytes, with what follows them. -/
@[simp] theorem decodeNat_encodeNat (v : Nat) (rest : List Byte) : decodeNat (encodeNat v ++ rest) = some (v, rest) :=
  decodeNat_natGroups (Nat.lt_log2_self.trans_le (Nat.pow_le_pow_left (by norm_num) _)) rest

@[simp] theorem decodeNat_encodeNat_nil (v : Nat) : decodeNat (encodeNat v) = some (v, []) := by
  simpa using decodeNat_encodeNat v []

/-- A register is read back from its bytes, with what follows them. -/
@[simp] theorem decodeReg_encodeReg (r : Reg) (rest : List Byte) : decodeReg (encodeReg r ++ rest) = some (r, rest) := by
  simp [encodeReg, decodeReg]

theorem encodePred_ne_nil (p : Pred) : encodePred p ≠ [] := by cases p <;> simp [encodePred]

/-- A predicate is read back from its bytes, with what follows them, under any bound as large as its bytes. -/
theorem decodePredWithin_encodePred (p : Pred) (fuel : Nat) (rest : List Byte) (hf : (encodePred p).length ≤ fuel) :
    decodePredWithin fuel (encodePred p ++ rest) = some (p, rest) := by
  obtain ⟨fuel, rfl⟩ : ∃ k, fuel = k + 1 :=
    Nat.exists_eq_add_one.mpr (hf.trans_lt' (List.length_pos_iff.mpr (encodePred_ne_nil p)))
  induction p generalizing fuel rest with
  | always => simp [encodePred, decodePredWithin]
  | eq r v | lt r v => simp [encodePred, decodePredWithin]
  | neg p ih =>
    simp only [encodePred, List.length_cons] at hf
    have hp := List.length_pos_iff.mpr (encodePred_ne_nil p)
    obtain ⟨fuel, rfl⟩ : ∃ k, fuel = k + 1 := Nat.exists_eq_add_one.mpr (by omega)
    simp [encodePred, decodePredWithin, ih rest fuel (by omega)]
  | conj p q ihp ihq | disj p q ihp ihq =>
    simp only [encodePred, List.length_cons, List.length_append] at hf
    have hp := List.length_pos_iff.mpr (encodePred_ne_nil p)
    obtain ⟨fuel, rfl⟩ : ∃ k, fuel = k + 1 := Nat.exists_eq_add_one.mpr (by omega)
    simp [encodePred, decodePredWithin, ihp _ fuel (by omega), ihq rest fuel (by omega)]

/-- A predicate is read back from all of its bytes. -/
@[simp] theorem decodePred_encodePred (p : Pred) : decodePred (encodePred p) = some p := by
  have := decodePredWithin_encodePred p (encodePred p).length [] le_rfl
  simp only [List.append_nil] at this
  simp [decodePred, this]

end Sys2Proof

namespace Sys2Proof.Machine

/-! ## Frames -/

/-- The two check bytes are the word. -/
theorem fcsSecond_append_fcsFirst (crc : Word) : fcsSecond crc ++ fcsFirst crc = crc := by
  apply BitVec.eq_of_getLsbD_eq
  intro i hi
  refine (BitVec.getLsbD_append (x := fcsSecond crc) (y := fcsFirst crc) (i := i)).trans ?_
  by_cases h : i < 8
  · simp [fcsFirst, h]
  · have h' : i - 8 < 8 := by omega
    have e : 8 + (i - 8) = i := by omega
    simp [fcsSecond, h, h', e]

@[simp] theorem stuff_nil : stuff [] = [] := rfl
@[simp] theorem stuff_cons (b : Byte) (bs : List Byte) : stuff (b :: bs) = stuffByte b ++ stuff bs := rfl

theorem stuff_append (as bs : List Byte) : stuff (as ++ bs) = stuff as ++ stuff bs := by
  induction as with
  | nil => rfl
  | cons a as ih => simp [ih]

/-- A stuffed byte is one byte that is neither FLAG nor ESCAPE, or one of the two escape pairs. -/
theorem stuffByte_cases (b : Byte) :
    (stuffByte b = [b] ∧ b ≠ Config.flag ∧ b ≠ Config.escape) ∨
      (b = Config.flag ∧ stuffByte b = [Config.escape, Config.escapedFlag]) ∨
      (b = Config.escape ∧ stuffByte b = [Config.escape, Config.escapedEscape]) := by
  by_cases h1 : b = Config.flag
  · subst h1; exact .inr (.inl ⟨rfl, by decide⟩)
  · by_cases h2 : b = Config.escape
    · subst h2; exact .inr (.inr ⟨rfl, by decide⟩)
    · exact .inl ⟨by simp [stuffByte, needsStuffing, h1, h2], h1, h2⟩

/-- Stuffing makes a sequence at most twice as long and never shorter. -/
theorem stuff_length (bs : List Byte) : bs.length ≤ (stuff bs).length ∧ (stuff bs).length ≤ 2 * bs.length := by
  induction bs with
  | nil => simp
  | cons b bs ih =>
    simp only [stuff_cons, List.length_append, List.length_cons]
    rcases stuffByte_cases b with ⟨h, -⟩ | ⟨-, h⟩ | ⟨-, h⟩ <;> simp [h] <;> omega

/-- No FLAG stands inside stuffed bytes. -/
theorem flag_not_mem_stuff (bs : List Byte) : Config.flag ∉ stuff bs := by
  induction bs with
  | nil => simp
  | cons b bs ih =>
    simp only [stuff_cons, List.mem_append, not_or]
    refine ⟨?_, ih⟩
    rcases stuffByte_cases b with ⟨h, h1, -⟩ | ⟨-, h⟩ | ⟨-, h⟩ <;> rw [h]
    · simpa using fun e => h1 e.symm
    · decide
    · decide

/-- Taking the stuffing off the stuffed bytes before a closing flag gives the bytes back. -/
theorem unstuffToFlag_stuff (bs : List Byte) : unstuffToFlag (stuff bs ++ [Config.flag]) = some bs := by
  induction bs with
  | nil => simp [unstuffToFlag]
  | cons b bs ih =>
    have hne : stuff bs ++ [Config.flag] ≠ [] := by simp
    obtain ⟨x, xs, hx⟩ := List.exists_cons_of_ne_nil hne
    rw [hx] at ih
    rcases stuffByte_cases b with ⟨h, h1, h2⟩ | ⟨rfl, h⟩ | ⟨rfl, h⟩
    · simp [h, hx, unstuffToFlag, h1, h2, ih]
    · have e : Config.escape ≠ Config.flag := by decide
      simp only [stuff_cons, h, hx, List.cons_append, List.nil_append, unstuffToFlag, if_neg e,
        if_true, ih, Option.map_some]
      rfl
    · have e : Config.escape ≠ Config.flag := by decide
      simp only [stuff_cons, h, hx, List.cons_append, List.nil_append, unstuffToFlag, if_neg e,
        if_true, ih, Option.map_some]
      rfl

theorem frameData_length (a c : Byte) (p : List Byte) : (frameData a c p).length = p.length + 4 := by
  simp [frameData]

end Sys2Proof.Machine
end

