-- ==== Sys2Proof/Laws/Fsm.lean ====
section
/-! SUPPORT. What the shared operations of the two stations can do, said once: the taking of a condition and one activation of each
station. -/

namespace Sys2Proof.Machine

/-! ## DecodeStep and EncodeStep, seen from one station -/

/-- A `DecodeStep` of the initiator: only `QB`, its receive context, its result buffer and the host's port can differ. -/
theorem decodeStep_initiator (s : State) :
    ∃ bs rx result label,
      decodeStep .initiator s =
        { s with
          ini := { s.ini with link := { s.ini.link with rx := rx, result := result } }
          qb := bs
          host := { s.host with ret := .nothing, label := label } } ∧
        (bs = s.qb ∨ ∃ b, s.qb = b :: bs) := by
  obtain ⟨bs, rx, result, label, h, hq⟩ := decodeStep_shape .initiator s
  exact ⟨bs, rx, result, label, h, hq⟩

/-- A `DecodeStep` of the responder: only `QA`, its receive context, its result buffer and the host's port can differ. -/
theorem decodeStep_responder (s : State) :
    ∃ bs rx result label,
      decodeStep .responder s =
        { s with
          res := { s.res with link := { s.res.link with rx := rx, result := result } }
          qa := bs
          host := { s.host with ret := .nothing, label := label } } ∧
        (bs = s.qa ∨ ∃ b, s.qa = b :: bs) := by
  obtain ⟨bs, rx, result, label, h, hq⟩ := decodeStep_shape .responder s
  exact ⟨bs, rx, result, label, h, hq⟩

/-- An `EncodeStep` of the initiator: only `QA`, its transmit context and the host's port can differ. -/
theorem encodeStep_initiator {s e : State} (h : encodeStep .initiator s = .next e) :
    ∃ sent tx label,
      e = { s with
          ini := { s.ini with link := { s.ini.link with tx := tx } }
          qa := s.qa ++ sent
          host := { s.host with ret := .nothing, label := label } } ∧
        (sent = [] ∨ ∃ b, sent = [b] ∧ s.qa.length < s.par.capQA) := by
  obtain ⟨sent, tx, label, h, hq⟩ := encodeStep_shape h
  exact ⟨sent, tx, label, h, hq⟩

/-- An `EncodeStep` of the responder: only `QB`, its transmit context and the host's port can differ. -/
theorem encodeStep_responder {s e : State} (h : encodeStep .responder s = .next e) :
    ∃ sent tx label,
      e = { s with
          res := { s.res with link := { s.res.link with tx := tx } }
          qb := s.qb ++ sent
          host := { s.host with ret := .nothing, label := label } } ∧
        (sent = [] ∨ ∃ b, sent = [b] ∧ s.qb.length < s.par.capQB) := by
  obtain ⟨sent, tx, label, h, hq⟩ := encodeStep_shape h
  exact ⟨sent, tx, label, h, hq⟩

/-! ## Taking a condition -/

/-- Taking a condition at the initiator: nothing, or `RxInit` and Prepare, or the deadline disarmed and Prepare. -/
theorem takeCondition_initiator (c : Condition) (s : State) :
    takeCondition c .initiator s =
      if c = .backpressure ∨ c = .frameIncomplete then s
      else if c = .replyTimeout then
        { s with ini := { s.ini with state := .prepare, deadline := { s.ini.deadline with armed := false } } }
      else
        { s with ini := { s.ini with state := .prepare, link := { s.ini.link with rx := rxInit s.par.n } } } := by
  cases c <;> rfl

/-- Taking a condition at the responder, which has no deadline: nothing, or `RxInit` and WaitCommand. -/
theorem takeCondition_responder (c : Condition) (s : State) :
    takeCondition c .responder s =
      if c = .backpressure ∨ c = .frameIncomplete ∨ c = .replyTimeout then s
      else
        { s with res := { s.res with state := .waitCommand, link := { s.res.link with rx := rxInit s.par.n } } } := by
  cases c <;> rfl

/-! ## Activations -/

/-- An activation of the initiator, by its state and what its one codec call finds. -/
theorem initiatorStep_cases {s t : State} (h : initiatorStep s = .next t) :
    (s.ini.state = .prepare ∧ t = initiatorPrepare s) ∨
      (∃ e, s.ini.state = .transmit ∧ encodeStep .initiator s = .next e ∧
        ((e.ini.link.tx.stage ≠ .done ∧ t = e) ∨
          (e.ini.link.tx.stage = .done ∧
            t = { e with ini :=
                  { e.ini with deadline := setDeadline e e.par.replyTimeoutMs, state := .awaitReply } }))) ∨
      (s.ini.state = .awaitReply ∧ ((decodeStep .initiator s).ini.link.rx.started = true ∧
          (decodeStep .initiator s).ini.link.rx.assembled = false) ∧ t = initiatorAwaitStart s) ∨
      (s.ini.state = .awaitReply ∧ ¬((decodeStep .initiator s).ini.link.rx.started = true ∧
          (decodeStep .initiator s).ini.link.rx.assembled = false) ∧
        isExpired s s.ini.deadline = true ∧ t = initiatorAwaitTimeout s) ∨
      (s.ini.state = .awaitReply ∧ ¬((decodeStep .initiator s).ini.link.rx.started = true ∧
          (decodeStep .initiator s).ini.link.rx.assembled = false) ∧
        isExpired s s.ini.deadline = false ∧ t = decodeStep .initiator s) ∨
      (s.ini.state = .receive ∧ t = initiatorReceive s) ∨
      (s.ini.state = .process ∧ t = initiatorProcess s) := by
  unfold initiatorStep selectInitiator at h
  cases hs : s.ini.state with
  | prepare => simp_all
  | transmit =>
    simp only [hs, initiatorTransmit] at h
    cases he : encodeStep .initiator s with
    | next e =>
      simp only [he, andThen] at h
      refine .inr (.inl ⟨e, rfl, rfl, ?_⟩)
      split_ifs at h with hd
      · exact .inr ⟨hd, by simpa using h.symm⟩
      · exact .inl ⟨hd, by simpa using h.symm⟩
    | fault => simp [he, andThen] at h
    | refused => simp [he, andThen] at h
  | awaitReply =>
    have hx : isExpired (decodeStep .initiator s) (decodeStep .initiator s).ini.deadline =
        isExpired s s.ini.deadline := by
      obtain ⟨bs, rx, result, label, hd, -⟩ := decodeStep_initiator s
      rw [hd]; rfl
    simp only [hs, hx] at h
    by_cases hb : (decodeStep .initiator s).ini.link.rx.started = true ∧
        (decodeStep .initiator s).ini.link.rx.assembled = false
    · simp [hb] at h; simp [hb, h]
    · have hb' : ((decodeStep .initiator s).ini.link.rx.started &&
          !(decodeStep .initiator s).ini.link.rx.assembled) = false := by
        rw [Bool.eq_false_iff]; intro hc; exact hb (by simpa using hc)
      cases hx' : isExpired s s.ini.deadline <;> simp [hb', hx'] at h
      · exact .inr (.inr (.inr (.inr (.inl ⟨rfl, hb, rfl, h.symm⟩))))
      · exact .inr (.inr (.inr (.inl ⟨rfl, hb, rfl, h.symm⟩)))
  | receive => simp_all
  | process => simp_all

/-- An activation of the responder, by its state and what its one codec call finds. -/
theorem responderStep_cases {s t : State} (h : responderStep s = .next t) :
    (s.res.state = .waitCommand ∧ t = responderWaitCommand s) ∨
      (s.res.state = .receive ∧ t = responderReceive s) ∨
      (s.res.state = .process ∧ t = responderProcess s) ∨
      (s.res.state = .reply ∧ s.qa ≠ [] ∧ (decodeStep .responder s).res.link.rx.started = false ∧
        t = decodeStep .responder s) ∨
      (s.res.state = .reply ∧ s.qa ≠ [] ∧ (decodeStep .responder s).res.link.rx.started = true ∧
        t = responderReplyPreempt s) ∨
      (∃ e, s.res.state = .reply ∧ s.qa = [] ∧ encodeStep .responder s = .next e ∧
        ((e.res.link.tx.stage ≠ .done ∧ t = e) ∨
          (e.res.link.tx.stage = .done ∧ t = (e.setRx .responder (rxInit e.par.n)).setRState .waitCommand))) := by
  unfold responderStep selectResponder at h
  cases hs : s.res.state with
  | waitCommand => simp_all
  | receive => simp_all
  | process => simp_all
  | reply =>
    simp only [hs] at h
    by_cases hq : s.qa = []
    · have hq' : queueEmpty s .qa = true := by simp [queueEmpty, hq]
      simp only [hq', if_true, responderReplySend] at h
      cases he : encodeStep .responder s with
      | next e =>
        simp only [he, andThen] at h
        refine .inr (.inr (.inr (.inr (.inr ⟨e, rfl, hq, rfl, ?_⟩))))
        split_ifs at h with hd
        · exact .inr ⟨hd, by simpa using h.symm⟩
        · exact .inl ⟨hd, by simpa using h.symm⟩
      | fault => simp [he, andThen] at h
      | refused => simp [he, andThen] at h
    · have hq' : queueEmpty s .qa = false := by simp [queueEmpty, hq]
      cases hst : (decodeStep .responder s).res.link.rx.started <;>
        simp [hq', hst, responderReplyPoll] at h <;> simp [hq, h]

/-- An activation of the initiator completes unless a payload byte is wanted from outside the payload array. -/
theorem initiatorStep_completes (s : State)
    (h : s.ini.link.tx.stage = .payload → s.ini.link.tx.cursor < s.ini.link.txPacket.payload.length) :
    ∃ t, initiatorStep s = .next t := by
  unfold initiatorStep
  cases selectInitiator s
  case transmit =>
    obtain ⟨e, he⟩ := encodeStep_completes .initiator s h
    simp only [initiatorTransmit, he, andThen]
    split_ifs <;> exact ⟨_, rfl⟩
  all_goals exact ⟨_, rfl⟩

/-- An activation of the responder completes unless a payload byte is wanted from outside the payload array. -/
theorem responderStep_completes (s : State)
    (h : s.res.link.tx.stage = .payload → s.res.link.tx.cursor < s.res.link.txPacket.payload.length) :
    ∃ t, responderStep s = .next t := by
  unfold responderStep
  cases selectResponder s
  case replySend =>
    obtain ⟨e, he⟩ := encodeStep_completes .responder s h
    simp only [responderReplySend, he, andThen]
    split_ifs <;> exact ⟨_, rfl⟩
  all_goals exact ⟨_, rfl⟩

@[simp] theorem tellArm_next (named : Bool) (t : State) :
    tellArm named (.next t) = .next (t.report (.bool named) t.host.label) := rfl
@[simp] theorem tellArm_fault (named : Bool) (f : Fault) : tellArm named (.fault f) = .fault f := rfl
@[simp] theorem tellArm_refused (named : Bool) (r : Refusal) : tellArm named (.refused r) = .refused r := rfl

/-- A row that names an arm does what its operation does, but for what the host is told. -/
theorem tellArm_cases (named : Bool) (o : Out) :
    (∃ t, o = .next t ∧ tellArm named o = .next (t.report (.bool named) t.host.label)) ∨
      (∃ f, o = .fault f ∧ tellArm named o = .fault f) ∨ (∃ r, o = .refused r ∧ tellArm named o = .refused r) := by
  cases o with
  | next t => exact .inl ⟨t, rfl, rfl⟩
  | fault f => exact .inr (.inl ⟨f, rfl, rfl⟩)
  | refused r => exact .inr (.inr ⟨r, rfl, rfl⟩)

/-- A row answers a next state only where its operation does, and then the same one, but for what the host is told. -/
theorem next_of_tellArm {named : Bool} {o : Out} {t : State} (h : tellArm named o = .next t) :
    ∃ u, o = .next u ∧ t = u.report (.bool named) u.host.label := by
  rcases tellArm_cases named o with ⟨u, ho, h'⟩ | ⟨f, -, h'⟩ | ⟨r, -, h'⟩ <;> rw [h'] at h <;> simp at h
  exact ⟨u, ho, h.symm⟩

end Sys2Proof.Machine
end

