-- ==== Sys2Proof/Laws/Memory.lean ====
section
/-! SUPPORT. The memory of the system, its two queues, keeps its form: `Memory.wf` holds after reset and after every operation that
reads or writes a queue. The sizes of the rest of the state under the shared operations. -/

namespace Sys2Proof.Machine

theorem Memory.wf_iff (s : State) :
    Memory.wf s = true ↔ s.qa.length ≤ s.par.capQA ∧ s.qb.length ≤ s.par.capQB := by
  simp [Memory.wf]

theorem Memory.wf_reset : Memory.wf State.reset = true := by decide

/-- The form depends on the queues and the capacities only. -/
theorem Memory.wf_congr {s t : State} (ha : t.qa = s.qa) (hb : t.qb = s.qb) (hp : t.par = s.par) :
    Memory.wf t = Memory.wf s := by
  simp [Memory.wf, ha, hb, hp]

/-- A write keeps the form where there is room. -/
theorem Memory.wf_qWrite {s : State} (h : Memory.wf s = true) (q : Queue) (b : Byte)
    (hq : (s.queue q).length < s.capacity q) : Memory.wf (s.qWrite q b) = true := by
  rw [Memory.wf_iff] at *
  cases q <;> simp [State.qWrite, State.setQueue] at * <;> omega

/-- Replacing a queue by a content within the capacity keeps the form. -/
theorem Memory.wf_setQueue {s : State} (h : Memory.wf s = true) (q : Queue) (bs : List Byte)
    (hq : bs.length ≤ s.capacity q) : Memory.wf (s.setQueue q bs) = true := by
  rw [Memory.wf_iff] at *
  cases q <;> simp [State.setQueue] at * <;> omega

/-- A read keeps the form. -/
theorem Memory.wf_qDrop {s : State} (h : Memory.wf s = true) (q : Queue) : Memory.wf (s.qDrop q) = true := by
  rw [Memory.wf_iff] at *
  cases q <;> simp [State.qDrop, State.setQueue] at * <;> omega

theorem Memory.wf_queue {s : State} (h : Memory.wf s = true) (q : Queue) : (s.queue q).length ≤ s.capacity q := by
  rw [Memory.wf_iff] at h
  cases q
  · exact h.1
  · exact h.2

/-- A byte written to an empty queue and read back leaves it empty. -/
theorem State.qDrop_qWrite_of_empty (s : State) (q : Queue) (b : Byte) (h : s.queue q = []) :
    ((s.qWrite q b).qDrop q).queue q = [] := by
  cases q <;> simp_all [State.qWrite, State.qDrop, State.setQueue]

/-- An operation on one queue leaves the other alone. -/
theorem State.queue_setQueue_of_ne (s : State) {q q' : Queue} (h : q' ≠ q) (bs : List Byte) :
    (s.setQueue q bs).queue q' = s.queue q' := by
  cases q <;> cases q' <;> first | rfl | exact absurd rfl h

/-- `EncodeStep` keeps the form. -/
theorem Memory.wf_encodeStep {st : Station} {s e : State} (hw : Memory.wf s = true) (h : encodeStep st s = .next e) :
    Memory.wf e = true := by
  obtain ⟨sent, tx, label, rfl, hq⟩ := encodeStep_shape h
  have hl : (s.queue st.outQueue ++ sent).length ≤ s.capacity st.outQueue := by
    rcases hq with rfl | ⟨b, rfl, hlt⟩
    · simpa using Memory.wf_queue hw st.outQueue
    · simpa using hlt
  rw [← Memory.wf_setQueue hw _ _ hl]
  apply Memory.wf_congr <;> simp

/-- `DecodeStep` keeps the form. -/
theorem Memory.wf_decodeStep {s : State} (hw : Memory.wf s = true) (st : Station) :
    Memory.wf (decodeStep st s) = true := by
  obtain ⟨bs, rx, result, label, h, hq⟩ := decodeStep_shape st s
  have hl : bs.length ≤ s.capacity st.inQueue := by
    have := Memory.wf_queue hw st.inQueue
    rcases hq with rfl | ⟨b, hb⟩
    · exact this
    · rw [hb] at this; simp at this; omega
  rw [h, ← Memory.wf_setQueue hw _ _ hl]
  apply Memory.wf_congr <;> simp

/-- A write from outside keeps the form, where it is not refused. -/
theorem Memory.wf_externalWrite {s t : State} (hw : Memory.wf s = true) {q : Queue} {bs : List Byte}
    (h : externalWrite q bs s = .next t) : Memory.wf t = true := by
  unfold externalWrite at h
  split_ifs at h with hl
  obtain rfl : (s.setQueue q (s.queue q ++ bs)).quiet = t := by simpa using h
  rw [← Memory.wf_setQueue hw q (s.queue q ++ bs) (by simpa using hl)]
  apply Memory.wf_congr <;> simp

/-- A read from outside keeps the form, where it is not refused. -/
theorem Memory.wf_externalRead {s t : State} (hw : Memory.wf s = true) {q : Queue} (h : externalRead q s = .next t) :
    Memory.wf t = true := by
  unfold externalRead at h
  have hl := Memory.wf_queue hw q
  cases hq : s.queue q with
  | nil => simp [hq] at h
  | cons b rest =>
    simp only [hq] at h hl
    obtain rfl : (s.setQueue q rest).report (.byte b) none = t := by simpa using h
    rw [← Memory.wf_setQueue hw q rest (by simp at hl; omega)]
    apply Memory.wf_congr <;> simp

/-! ## Sizes -/

@[simp] theorem zeros_length (n : Nat) : (zeros n).length = n := by simp [zeros]

theorem Link.sized_reset (n : Nat) : (Link.reset n).Sized n := by
  simp [Link.Sized, Link.reset, zeroPacket, rxInit, zeroResult]

theorem rxInit_length (n : Nat) : (rxInit n).packet.payload.length = n := by simp [rxInit, zeroPacket]

/-- `ValidateFrame` keeps the size of the packet it copies. -/
theorem consume_sizes (st : Station) (b : Byte) (s : State) :
    ((consume st b s).rx st).packet.payload.length = (s.rx st).packet.payload.length ∧
      (((consume st b s).result st) = s.result st ∨
        ((consume st b s).result st).payload.length = (s.rx st).packet.payload.length) := by
  rcases consume_cases st b s with ⟨-, h⟩ | ⟨-, h⟩
  · rw [h]
    rcases validateFrame_cases st (s.setRx st { s.rx st with assembled := true }) with
      ⟨c, -, h⟩ | ⟨-, -, h⟩ | ⟨-, -, h⟩ <;> rw [h] <;> simp
  · rw [h]
    refine ⟨?_, .inl (by simp)⟩
    simp only [State.quiet_rx, State.setRx_rx]
    unfold rxAfter
    cases classify (s.rx st) b <;> simp

/-- `DecodeStep` keeps the sizes. -/
theorem decodeStep_sizes (st : Station) (s : State) :
    ((decodeStep st s).rx st).packet.payload.length = (s.rx st).packet.payload.length ∧
      (((decodeStep st s).result st) = s.result st ∨
        ((decodeStep st s).result st).payload.length = (s.rx st).packet.payload.length) := by
  rcases decodeStep_cases st s with ⟨-, h⟩ | ⟨-, -, h⟩ | ⟨b, rest, -, -, h⟩ <;> rw [h]
  · simp
  · simp
  · simpa using consume_sizes st b (s.setQueue st.inQueue rest)

theorem cmdProcess_length (c : Byte) (p : List Byte) : (cmdProcess c p).length = p.length := by
  unfold cmdProcess
  cases commandOf c <;> simp [Command.run]

end Sys2Proof.Machine
end

