-- ==== Sys2Proof/Laws/PerInstr.lean ====
section
/-! SUPPORT. What holds of every instruction as syntax, one lemma per constructor. Family `WordWidth`: where the opcode table gives
a row bits, its fetch word has as many bytes as the table says. -/

namespace Sys2Proof.Laws

/-- The bytes of a word in the places to which spec/opcode_table.json gives bits (R91 to R97, R102, R105). -/
def tableWidth : Format → Option Nat
  | .wireByte => some 1
  | .afterEscape => some 1
  | .wirePair => some 2
  | .addressByte => some 1
  | .controlByte => some 1
  | .enumStage => some 1
  | .enumIState => some 1
  | .enumRState => some 1
  | _ => none

/-- The word of an instruction has the width of its place. -/
def WordWidth.Statement (i : Instr) : Prop :=
  ∀ n : Nat, tableWidth (encode i).fmt = some n → (encode i).bytes.length = n

theorem WordWidth.flag (st : Station) : WordWidth.Statement (.flag st) :=
  fun _ h => by cases h; rfl
theorem WordWidth.escape (st : Station) : WordWidth.Statement (.escape st) :=
  fun _ h => by cases h; rfl
theorem WordWidth.data (st : Station) (d : Byte) : WordWidth.Statement (.data st d) :=
  fun _ h => by cases h; rfl
theorem WordWidth.escaped (st : Station) (x : Byte) : WordWidth.Statement (.escaped st x) :=
  fun _ h => by cases h; rfl
theorem WordWidth.escFlag (st : Station) : WordWidth.Statement (.escFlag st) :=
  fun _ h => by cases h; rfl
theorem WordWidth.escEscape (st : Station) : WordWidth.Statement (.escEscape st) :=
  fun _ h => by cases h; rfl
theorem WordWidth.escOther (st : Station) (x : Byte) : WordWidth.Statement (.escOther st x) :=
  fun _ h => by cases h; rfl
theorem WordWidth.frame (st : Station) (address control : Byte) (payload : List Byte) : WordWidth.Statement (.frame st address control payload) :=
  fun _ h => by cases h
theorem WordWidth.request : WordWidth.Statement .request :=
  fun _ h => by cases h
theorem WordWidth.reply : WordWidth.Statement .reply :=
  fun _ h => by cases h
theorem WordWidth.fcs (address control : Byte) (payload : List Byte) : WordWidth.Statement (.fcs address control payload) :=
  fun _ h => by cases h
theorem WordWidth.addrInitiator (st : Station) : WordWidth.Statement (.addrInitiator st) :=
  fun _ h => by cases h; rfl
theorem WordWidth.addrResponder (st : Station) : WordWidth.Statement (.addrResponder st) :=
  fun _ h => by cases h; rfl
theorem WordWidth.addrOther (st : Station) (a : Byte) : WordWidth.Statement (.addrOther st a) :=
  fun _ h => by cases h; rfl
theorem WordWidth.cmdComplement (st : Station) : WordWidth.Statement (.cmdComplement st) :=
  fun _ h => by cases h; rfl
theorem WordWidth.cmdReverse (st : Station) : WordWidth.Statement (.cmdReverse st) :=
  fun _ h => by cases h; rfl
theorem WordWidth.cmdReserved (st : Station) (c : Byte) : WordWidth.Statement (.cmdReserved st c) :=
  fun _ h => by cases h; rfl
theorem WordWidth.posAddress (st : Station) (d : Byte) : WordWidth.Statement (.posAddress st d) :=
  fun _ h => by cases h
theorem WordWidth.posControl (st : Station) (d : Byte) : WordWidth.Statement (.posControl st d) :=
  fun _ h => by cases h
theorem WordWidth.posPayload (st : Station) (d : Byte) : WordWidth.Statement (.posPayload st d) :=
  fun _ h => by cases h
theorem WordWidth.posFcsFirst (st : Station) (d : Byte) : WordWidth.Statement (.posFcsFirst st d) :=
  fun _ h => by cases h
theorem WordWidth.posFcsSecond (st : Station) (d : Byte) : WordWidth.Statement (.posFcsSecond st d) :=
  fun _ h => by cases h
theorem WordWidth.posOverflow (st : Station) (d : Byte) : WordWidth.Statement (.posOverflow st d) :=
  fun _ h => by cases h
theorem WordWidth.stageStartFlag (st : Station) : WordWidth.Statement (.stageStartFlag st) :=
  fun _ h => by cases h; rfl
theorem WordWidth.stageAddress (st : Station) : WordWidth.Statement (.stageAddress st) :=
  fun _ h => by cases h; rfl
theorem WordWidth.stageControl (st : Station) : WordWidth.Statement (.stageControl st) :=
  fun _ h => by cases h; rfl
theorem WordWidth.stagePayload (st : Station) : WordWidth.Statement (.stagePayload st) :=
  fun _ h => by cases h; rfl
theorem WordWidth.stageFcsHigh (st : Station) : WordWidth.Statement (.stageFcsHigh st) :=
  fun _ h => by cases h; rfl
theorem WordWidth.stageFcsLow (st : Station) : WordWidth.Statement (.stageFcsLow st) :=
  fun _ h => by cases h; rfl
theorem WordWidth.stageEndFlag (st : Station) : WordWidth.Statement (.stageEndFlag st) :=
  fun _ h => by cases h; rfl
theorem WordWidth.stageDone (st : Station) : WordWidth.Statement (.stageDone st) :=
  fun _ h => by cases h; rfl
theorem WordWidth.istatePrepare : WordWidth.Statement .istatePrepare :=
  fun _ h => by cases h; rfl
theorem WordWidth.istateTransmit : WordWidth.Statement .istateTransmit :=
  fun _ h => by cases h; rfl
theorem WordWidth.istateAwaitReply : WordWidth.Statement .istateAwaitReply :=
  fun _ h => by cases h; rfl
theorem WordWidth.istateReceive : WordWidth.Statement .istateReceive :=
  fun _ h => by cases h; rfl
theorem WordWidth.istateProcess : WordWidth.Statement .istateProcess :=
  fun _ h => by cases h; rfl
theorem WordWidth.rstateWaitCommand : WordWidth.Statement .rstateWaitCommand :=
  fun _ h => by cases h; rfl
theorem WordWidth.rstateReceive : WordWidth.Statement .rstateReceive :=
  fun _ h => by cases h; rfl
theorem WordWidth.rstateProcess : WordWidth.Statement .rstateProcess :=
  fun _ h => by cases h; rfl
theorem WordWidth.rstateReply : WordWidth.Statement .rstateReply :=
  fun _ h => by cases h; rfl
theorem WordWidth.crc16 (bytes : List Byte) : WordWidth.Statement (.crc16 bytes) :=
  fun _ h => by cases h
theorem WordWidth.encodeDone (st : Station) : WordWidth.Statement (.encodeDone st) :=
  fun _ h => by cases h
theorem WordWidth.encodeBackpressure (st : Station) : WordWidth.Statement (.encodeBackpressure st) :=
  fun _ h => by cases h
theorem WordWidth.encodeStartFlag (st : Station) : WordWidth.Statement (.encodeStartFlag st) :=
  fun _ h => by cases h
theorem WordWidth.encodeEndFlag (st : Station) : WordWidth.Statement (.encodeEndFlag st) :=
  fun _ h => by cases h
theorem WordWidth.encodeEscape2 (st : Station) : WordWidth.Statement (.encodeEscape2 st) :=
  fun _ h => by cases h
theorem WordWidth.encodeAddress (st : Station) : WordWidth.Statement (.encodeAddress st) :=
  fun _ h => by cases h
theorem WordWidth.encodeControl (st : Station) : WordWidth.Statement (.encodeControl st) :=
  fun _ h => by cases h
theorem WordWidth.encodePayload (st : Station) : WordWidth.Statement (.encodePayload st) :=
  fun _ h => by cases h
theorem WordWidth.encodeFcsHigh (st : Station) : WordWidth.Statement (.encodeFcsHigh st) :=
  fun _ h => by cases h
theorem WordWidth.encodeFcsLow (st : Station) : WordWidth.Statement (.encodeFcsLow st) :=
  fun _ h => by cases h
theorem WordWidth.advance (st : Station) : WordWidth.Statement (.advance st) :=
  fun _ h => by cases h
theorem WordWidth.txInit (st : Station) (crc : Word) : WordWidth.Statement (.txInit st crc) :=
  fun _ h => by cases h
theorem WordWidth.decodeStalled (st : Station) : WordWidth.Statement (.decodeStalled st) :=
  fun _ h => by cases h
theorem WordWidth.decodeEmpty (st : Station) : WordWidth.Statement (.decodeEmpty st) :=
  fun _ h => by cases h
theorem WordWidth.decodeUnescape (st : Station) : WordWidth.Statement (.decodeUnescape st) :=
  fun _ h => by cases h
theorem WordWidth.decodeEscape (st : Station) : WordWidth.Statement (.decodeEscape st) :=
  fun _ h => by cases h
theorem WordWidth.decodeFlagOpen (st : Station) : WordWidth.Statement (.decodeFlagOpen st) :=
  fun _ h => by cases h
theorem WordWidth.decodeFlagClose (st : Station) : WordWidth.Statement (.decodeFlagClose st) :=
  fun _ h => by cases h
theorem WordWidth.decodeData (st : Station) : WordWidth.Statement (.decodeData st) :=
  fun _ h => by cases h
theorem WordWidth.route (st : Station) (d : Byte) : WordWidth.Statement (.route st d) :=
  fun _ h => by cases h
theorem WordWidth.validateFrame (st : Station) : WordWidth.Statement (.validateFrame st) :=
  fun _ h => by cases h
theorem WordWidth.rxInit (st : Station) : WordWidth.Statement (.rxInit st) :=
  fun _ h => by cases h
theorem WordWidth.rxOpen (st : Station) : WordWidth.Statement (.rxOpen st) :=
  fun _ h => by cases h
theorem WordWidth.initiatorPrepare : WordWidth.Statement .initiatorPrepare :=
  fun _ h => by cases h
theorem WordWidth.initiatorTransmit : WordWidth.Statement .initiatorTransmit :=
  fun _ h => by cases h
theorem WordWidth.initiatorAwaitStart : WordWidth.Statement .initiatorAwaitStart :=
  fun _ h => by cases h
theorem WordWidth.initiatorAwaitTimeout : WordWidth.Statement .initiatorAwaitTimeout :=
  fun _ h => by cases h
theorem WordWidth.initiatorReceive : WordWidth.Statement .initiatorReceive :=
  fun _ h => by cases h
theorem WordWidth.initiatorProcess : WordWidth.Statement .initiatorProcess :=
  fun _ h => by cases h
theorem WordWidth.responderWaitCommand : WordWidth.Statement .responderWaitCommand :=
  fun _ h => by cases h
theorem WordWidth.responderReceive : WordWidth.Statement .responderReceive :=
  fun _ h => by cases h
theorem WordWidth.responderProcess : WordWidth.Statement .responderProcess :=
  fun _ h => by cases h
theorem WordWidth.responderReplyPoll : WordWidth.Statement .responderReplyPoll :=
  fun _ h => by cases h
theorem WordWidth.responderReplyPreempt : WordWidth.Statement .responderReplyPreempt :=
  fun _ h => by cases h
theorem WordWidth.responderReplySend : WordWidth.Statement .responderReplySend :=
  fun _ h => by cases h
theorem WordWidth.qIsFull (q : Queue) : WordWidth.Statement (.qIsFull q) :=
  fun _ h => by cases h
theorem WordWidth.qIsEmpty (q : Queue) : WordWidth.Statement (.qIsEmpty q) :=
  fun _ h => by cases h
theorem WordWidth.qWriteByte (q : Queue) (b : Byte) : WordWidth.Statement (.qWriteByte q b) :=
  fun _ h => by cases h
theorem WordWidth.qReadByte (q : Queue) : WordWidth.Statement (.qReadByte q) :=
  fun _ h => by cases h
theorem WordWidth.qReset (q : Queue) : WordWidth.Statement (.qReset q) :=
  fun _ h => by cases h
theorem WordWidth.timerNow : WordWidth.Statement .timerNow :=
  fun _ h => by cases h
theorem WordWidth.timerSetDeadline (durationMs : Nat) : WordWidth.Statement (.timerSetDeadline durationMs) :=
  fun _ h => by cases h
theorem WordWidth.timerIsExpired (deadline : Deadline) : WordWidth.Statement (.timerIsExpired deadline) :=
  fun _ h => by cases h
theorem WordWidth.cmdProcess (command : Byte) (input : List Byte) : WordWidth.Statement (.cmdProcess command input) :=
  fun _ h => by cases h
theorem WordWidth.cmdProcessComplement (input : List Byte) : WordWidth.Statement (.cmdProcessComplement input) :=
  fun _ h => by cases h
theorem WordWidth.cmdProcessReverse (input : List Byte) : WordWidth.Statement (.cmdProcessReverse input) :=
  fun _ h => by cases h
theorem WordWidth.cmdProcessUnknown (command : Byte) (input : List Byte) : WordWidth.Statement (.cmdProcessUnknown command input) :=
  fun _ h => by cases h
theorem WordWidth.reset : WordWidth.Statement .reset :=
  fun _ h => by cases h
theorem WordWidth.scriptReset : WordWidth.Statement .scriptReset :=
  fun _ h => by cases h
theorem WordWidth.scriptCfg (cmd : Byte) (payload : List Byte) : WordWidth.Statement (.scriptCfg cmd payload) :=
  fun _ h => by cases h
theorem WordWidth.scriptParam (name : ParamName) (value : Nat) : WordWidth.Statement (.scriptParam name value) :=
  fun _ h => by cases h
theorem WordWidth.scriptClock (t : Nat) : WordWidth.Statement (.scriptClock t) :=
  fun _ h => by cases h
theorem WordWidth.scriptTick (d : Nat) : WordWidth.Statement (.scriptTick d) :=
  fun _ h => by cases h
theorem WordWidth.scriptStepI : WordWidth.Statement .scriptStepI :=
  fun _ h => by cases h
theorem WordWidth.scriptStepR : WordWidth.Statement .scriptStepR :=
  fun _ h => by cases h
theorem WordWidth.scriptLoop (count lines : Nat) : WordWidth.Statement (.scriptLoop count lines) :=
  fun _ h => by cases h
theorem WordWidth.scriptPush (q : Queue) (bytes : List Byte) : WordWidth.Statement (.scriptPush q bytes) :=
  fun _ h => by cases h
theorem WordWidth.scriptPop (q : Queue) : WordWidth.Statement (.scriptPop q) :=
  fun _ h => by cases h
theorem WordWidth.scriptExpect (p : Pred) : WordWidth.Statement (.scriptExpect p) :=
  fun _ h => by cases h

end Sys2Proof.Laws
end

