-- ==== Sys2Proof/Laws/Receiver.lean ====
section
/-! SUPPORT. Whole sequences of bytes at a receiver: stuffed bytes are their data bytes routed one by one, the data bytes of a
frame of the right length fill the receive context in order, and a word of wire bytes that is no instruction runs as its
bytes. -/

namespace Sys2Proof.Machine

/-- Data bytes routed one after another. -/
abbrev routeBytes (n : Nat) (rx : RxContext) (ds : List Byte) : RxContext := ds.foldl (routeByte n) rx

theorem routeBytes_flags (n : Nat) (rx : RxContext) (ds : List Byte) :
    (routeBytes n rx ds).started = rx.started ∧ (routeBytes n rx ds).assembled = rx.assembled ∧
      (routeBytes n rx ds).valid = rx.valid ∧ (routeBytes n rx ds).unescPending = rx.unescPending := by
  induction ds generalizing rx with
  | nil => exact ⟨rfl, rfl, rfl, rfl⟩
  | cons d ds ih => simpa using ih (routeByte n rx d)

/-- The position counter counts the bytes and stays at `n + 5` (R35, R169). -/
theorem routeBytes_pos (n : Nat) (rx : RxContext) (ds : List Byte) (h : rx.pos ≤ n + 5) :
    (routeBytes n rx ds).pos = min (rx.pos + ds.length) (n + 5) := by
  induction ds generalizing rx with
  | nil => simp [h]
  | cons d ds ih =>
    have hp := routeByte_pos n rx d
    have := ih (routeByte n rx d) (by rw [hp]; split_ifs <;> omega)
    simp only [List.foldl_cons, List.length_cons, routeBytes] at this ⊢
    rw [this, hp]
    split_ifs <;> omega

/-- Payload bytes at positions 2 to `n + 1` overwrite the array from where the counter stands. -/
theorem routeBytes_payload {n : Nat} (ds : List Byte) {rx : RxContext} (before after : List Byte)
    (hp : rx.pos = before.length + 2) (hn : before.length + ds.length ≤ n)
    (hl : rx.packet.payload = before ++ after) (ha : ds.length ≤ after.length) :
    routeBytes n rx ds =
      { rx with packet := { rx.packet with payload := before ++ ds ++ after.drop ds.length }, pos := rx.pos + ds.length } := by
  induction ds generalizing rx before after with
  | nil =>
    obtain ⟨_, _, _, ⟨_, _, _⟩, _, _, _, _⟩ := rx
    simp_all
  | cons d ds ih =>
    obtain ⟨x, after, rfl⟩ := List.exists_cons_of_length_pos (l := after) (by simp at ha; omega)
    simp only [List.length_cons] at hn ha
    have hr := routeByte_payload (n := n) (rx := rx) (by omega) (by omega) d
    have hs : rx.packet.payload.set (rx.pos - 2) d = (before ++ [d]) ++ after := by simp [hl, hp]
    rw [hs] at hr
    rw [routeBytes, List.foldl_cons, hr]
    refine (ih (before ++ [d]) after (by simp [hp]) (by simp; omega) rfl (by omega)).trans ?_
    simp; omega

/-- The `n + 4` data bytes of a frame fill an empty context in the order of R71. -/
theorem routeBytes_frame {n : Nat} {rx : RxContext} (a c f1 f2 : Byte) (p : List Byte) (h0 : rx.pos = 0)
    (hp : p.length = n) (hl : rx.packet.payload.length = n) :
    routeBytes n rx (a :: c :: (p ++ [f1, f2])) =
      { rx with packet := ⟨a, c, p⟩, pos := n + 4, fcsFirst := f1, fcsSecond := f2 } := by
  have h1 := routeByte_address (n := n) h0 a
  have h2 := routeByte_control (n := n) (rx := routeByte n rx a) (by rw [h1]) c
  have h3 := routeBytes_payload (n := n) p (rx := routeByte n (routeByte n rx a) c) [] rx.packet.payload
    (by rw [h2]; rfl) (by simp [hp]) (by rw [h2, h1]; rfl) (by omega)
  have h4 : (routeBytes n (routeByte n (routeByte n rx a) c) p).pos = n + 2 := by rw [h3, h2]; simp; omega
  have h5 := routeByte_fcsFirst h4 f1
  have h6 := routeByte_fcsSecond (n := n) (rx := routeByte n (routeBytes n (routeByte n (routeByte n rx a) c) p) f1)
    (by rw [h5]) f2
  simp only [routeBytes, List.foldl_cons, List.foldl_append, List.foldl_nil] at h3 h5 h6 ⊢
  rw [h6, h5, h3, h2, h1]
  simp [hp, hl]

/-- The wire bytes of one data byte, at an open receiver with no unescape pending, route it (R163, R164, R166). -/
theorem deliverAll_stuffByte (st : Station) (d : Byte) (s : State) (ha : (s.rx st).assembled = false)
    (hu : (s.rx st).unescPending = false) :
    deliverAll st (stuffByte d) s = (s.setRx st (routeByte s.par.n (s.rx st) d)).quiet := by
  have pair : ∀ x : Byte, deliverAll st [Config.escape, x] s =
      (s.setRx st (routeByte s.par.n (s.rx st) (x ^^^ Config.xorMask))).quiet := by
    intro x
    have e : ∀ rx : RxContext, rx.assembled = false → rx.unescPending = false →
        { rx with assembled := false, unescPending := false } = rx := by
      rintro ⟨⟩ rfl rfl; rfl
    simp [deliverAll, deliver, ha, consume, classify, hu, consumeAs, State.route, e _ ha hu, State.quiet]
  rcases stuffByte_cases d with ⟨h, h1, h2⟩ | ⟨rfl, h⟩ | ⟨rfl, h⟩ <;> rw [h]
  · simp [deliverAll, deliver, ha, consume, classify, hu, h1, h2, consumeAs, State.route]
  · exact pair Config.escapedFlag
  · exact pair Config.escapedEscape

/-- The wire bytes of data bytes, at such a receiver, route them in order. -/
theorem deliverAll_stuff (st : Station) (ds : List Byte) (s : State) (ha : (s.rx st).assembled = false)
    (hu : (s.rx st).unescPending = false) :
    ∃ ret label, deliverAll st (stuff ds) s = (s.setRx st (routeBytes s.par.n (s.rx st) ds)).report ret label := by
  induction ds generalizing s with
  | nil => exact ⟨s.host.ret, s.host.label, by simp [deliverAll]; rfl⟩
  | cons d ds ih =>
    rw [stuff_cons, deliverAll_append, deliverAll_stuffByte st d s ha hu]
    obtain ⟨ret, label, h⟩ := ih (s.setRx st (routeByte s.par.n (s.rx st) d)).quiet (by simpa using ha) (by simpa using hu)
    exact ⟨ret, label, by rw [h]; simp [State.quiet]⟩

/-- A frame's wire bytes at a context at `RxInit`: the data bytes are routed, the context is closed and validated (R165). -/
theorem deliverAll_framed (st : Station) (ds : List Byte) (s : State) (h : s.rx st = rxInit s.par.n) :
    ∃ ret label, deliverAll st (Config.flag :: (stuff ds ++ [Config.flag])) s =
      validateFrame st ((s.setRx st { routeBytes s.par.n { rxInit s.par.n with started := true } ds with
        assembled := true }).report ret label) := by
  have open_ : deliver st Config.flag s = (s.setRx st { rxInit s.par.n with started := true }).quiet := by
    have e : Config.flag ≠ Config.escape := by decide
    simp [deliver, h, consume, classify, consumeAs, rxInit, e]
  obtain ⟨ret, label, hs⟩ := deliverAll_stuff st ds (s.setRx st { rxInit s.par.n with started := true }).quiet
    (by simp [rxInit]) (by simp [rxInit])
  obtain ⟨f1, f2, -, f4⟩ := routeBytes_flags s.par.n { rxInit s.par.n with started := true } ds
  refine ⟨ret, label, ?_⟩
  rw [deliverAll, open_, deliverAll_append, hs]
  have e : Config.flag ≠ Config.escape := by decide
  simp [rxInit] at f1 f2 f4
  simp [deliverAll, deliver, consume, classify, consumeAs, rxInit, f1, f2, f4, e, State.quiet]

/-- A frame the decoder reads has a payload that is not empty (R90). -/
theorem decodeFrameData_ok {st : Station} {bs : List Byte} {i : Instr} (h : decodeFrameData st bs = .ok i) :
    ∃ a c p, p ≠ [] ∧ i = .frame st a c p := by
  unfold decodeFrameData at h
  split at h
  · dsimp only at h
    split_ifs at h with hl
    cases h
    exact ⟨_, _, _, by rw [ne_eq, ← List.length_eq_zero_iff, List.length_take]; omega, rfl⟩
  · cases h

/-- A word of wire bytes that is an instruction is a well-formed one, which hands bytes to the receiver the word is for and does
nothing else. -/
theorem decode_onWire {w : FetchWord} {i : Instr} (hw : w.fmt.onWire = true) (h : decode w = .ok i) :
    i.wellFormed = true ∧ ∃ bs, ∀ s, exec i s = .next (deliverAll w.st bs s) := by
  obtain ⟨fmt, st, bs⟩ := w
  cases fmt <;> try cases hw
  all_goals simp only [decode] at h
  · unfold decodeWireByte at h
    split at h
    · split_ifs at h <;> cases h <;> exact ⟨by simp_all [Instr.wellFormed], [_], fun _ => rfl⟩
    · cases h
  · unfold decodeAfterEscape at h
    split at h <;> cases h
    exact ⟨rfl, [_], fun _ => rfl⟩
  · unfold decodeWirePair at h
    split at h
    · split_ifs at h <;> cases h <;> exact ⟨by simp_all [Instr.wellFormed], [_, _], fun _ => rfl⟩
    · cases h
  · unfold decodeFrame at h
    split at h
    · split_ifs at h
      split at h
      · obtain ⟨a, c, p, hp, rfl⟩ := decodeFrameData_ok h
        exact ⟨by simp [Instr.wellFormed, hp], frameBytes a c p, fun _ => rfl⟩
      · cases h
    · cases h

/-- A rejected word of wire bytes runs, and touches the receiver it is for and nothing else; any other is refused. -/
theorem runRejected_cases (w : FetchWord) (e : DecodeError) (s : State) :
    (w.fmt.onWire = true ∧ ∃ rx result ret label,
        runRejected w e s = .next (((s.setRx w.st rx).setResult w.st result).report ret label)) ∨
      (w.fmt.onWire = false ∧ runRejected w e s = .refused (.undecodable e)) := by
  unfold runRejected
  cases w.fmt.onWire
  · exact .inr ⟨rfl, rfl⟩
  · obtain ⟨rx, result, ret, label, h⟩ := deliverAll_shape w.st w.bytes s.quiet
    exact .inl ⟨rfl, rx, result, ret, label, by simp only [if_true, h]; cases w.st <;> rfl⟩

end Sys2Proof.Machine
end

