-- ==== Sys2Proof/Tests/Slice0.lean ====
section
/-! SUPPORT. Tests. Every expected result is copied from spec/: V-… and S… are entries of 95_test_vectors.md, R… are rules. -/

namespace Sys2Proof.Tests

open Sys2Proof.Machine

/-! ## Helpers -/

/-- Whether an outcome is a next state with a property. -/
def shows (o : Out) (p : State → Bool) : Bool :=
  match o with
  | .next s => p s
  | .fault _ => false
  | .refused _ => false

/-- Whether an outcome is a refusal for a reason. -/
def refuses (o : Out) (r : Refusal) : Bool :=
  match o with
  | .next _ => false
  | .fault _ => false
  | .refused r' => r' == r

/-- Whether an outcome is a fault. -/
def faults (o : Out) : Bool :=
  match o with
  | .next _ => false
  | .fault _ => true
  | .refused _ => false

/-- Whether a word decodes to an instruction. -/
def reads (w : FetchWord) (i : Instr) : Bool :=
  match decode w with
  | .ok j => j == i
  | .error _ => false

/-- Whether a word is rejected for a reason. -/
def rejects (w : FetchWord) (e : DecodeError) : Bool :=
  match decode w with
  | .ok _ => false
  | .error e' => e' == e

/-- A system with a payload of `n` bytes, both stations at reset, queues of eight bytes, 32 bits of clock, a timeout of 1000. -/
def base (n : Nat) : State :=
  { ini := Initiator.reset n, res := Responder.reset n, qa := [], qb := [], clock := 0
    cfg := { command := 0x02#8, payload := zeros n }
    par := { n := n, capQA := 8, capQB := 8, replyTimeoutMs := 1000, clockW := 32 }
    prog := [], turn := .initiator, free := 0, host := { ret := .nothing, label := none, ready := [] } }

/-- The packet of V-TX-12. -/
def packet12 : Packet := { address := 0x02#8, control := 0x01#8, payload := [0x7E#8, 0x11#8] }

/-- The initiator sending the packet of V-TX-12 (its CRC is 8821), at a stage and cursor, with `QA` holding some bytes. -/
def sending (stage : Stage) (cursor : Nat) (esc : Bool) (cur : Byte) (qa : List Byte) : State :=
  let s := base 2
  { (s.setTxPacket .initiator packet12).setTx .initiator
      { stage := stage, cursor := cursor, fcsFirst := 0x21#8, fcsSecond := 0x88#8, escPending := esc, curByte := cur } with
    qa := qa }

/-- The bytes appended to `QA`, and the stage, cursor and escape flag after. -/
def sent (o : Out) (qa : List Byte) (stage : Stage) (cursor : Nat) (esc : Bool) (cur : Byte) : Bool :=
  shows o fun s => s.qa == qa && (s.tx .initiator).stage == stage && (s.tx .initiator).cursor == cursor &&
    (s.tx .initiator).escPending == esc && (s.tx .initiator).curByte == cur

/-- A receive context of two payload bytes with some fields set. -/
def receiving (started assembled unesc : Bool) (pos : Nat) : RxContext :=
  { rxInit 2 with started := started, assembled := assembled, unescPending := unesc, pos := pos }

/-- The responder's receive context and `QA` set. -/
def hearing (rx : RxContext) (qa : List Byte) : State := { (base 2).setRx .responder rx with qa := qa }

/-- The closed context that V-RX-1 ends in, before its validation. -/
def closed12 : RxContext :=
  { started := true, assembled := true, valid := false, packet := packet12, pos := 6, unescPending := false,
    fcsFirst := 0x21#8, fcsSecond := 0x88#8 }

/-- The initiator in a state of its FSM. -/
def iAt (st : IState) (s : State) : State := { s with ini := { s.ini with state := st } }

/-- The responder in a state of its FSM. -/
def rAt (st : RState) (s : State) : State := { s with res := { s.res with state := st } }

/-- V-I-5 to V-I-9: AwaitReply, armed at 22 for 1000 ms. -/
def awaiting (now : Nat) (qb : List Byte) : State :=
  let s := base 2
  { s with
    ini := { s.ini with state := .awaitReply, deadline := { armed := true, tStart := 22, duration := 1000 } }
    clock := now, qb := qb }

/-- V-R-5 to V-R-10: the responder in Reply with a transmit stage. -/
def replying (stage : Stage) (qa qb : List Byte) : State :=
  let s := (base 2).setTx .responder
    { stage := stage, cursor := 0, fcsFirst := 0x00#8, fcsSecond := 0x00#8, escPending := false, curByte := 0x00#8 }
  { rAt .reply (s.setTxPacket .responder { address := 0x01#8, control := 0x02#8, payload := [0x11#8, 0x22#8] }) with
    qa := qa, qb := qb }


/-! ## Well-formedness: each check refuses an ill-formed term -/

theorem test_wellFormed_refuses_data_flag : (.data .initiator 0x7E#8 : Instr).wellFormed = false := by decide

theorem test_wellFormed_refuses_data_escape : (.data .initiator 0x7D#8 : Instr).wellFormed = false := by decide

theorem test_wellFormed_refuses_escOther_flag : (.escOther .initiator 0x5E#8 : Instr).wellFormed = false := by decide

theorem test_wellFormed_refuses_escOther_escape : (.escOther .initiator 0x5D#8 : Instr).wellFormed = false := by decide

theorem test_wellFormed_refuses_frame_empty : (.frame .initiator 0x01#8 0x01#8 [] : Instr).wellFormed = false := by decide

theorem test_wellFormed_refuses_addrOther_initiator : (.addrOther .responder 0x01#8 : Instr).wellFormed = false := by decide

theorem test_wellFormed_refuses_addrOther_responder : (.addrOther .responder 0x02#8 : Instr).wellFormed = false := by decide

theorem test_wellFormed_refuses_cmdReserved_complement : (.cmdReserved .responder 0x01#8 : Instr).wellFormed = false := by decide

theorem test_wellFormed_refuses_cmdReserved_reverse : (.cmdReserved .responder 0x02#8 : Instr).wellFormed = false := by decide

theorem test_wellFormed_refuses_unknown_complement : (.cmdProcessUnknown 0x01#8 [] : Instr).wellFormed = false := by decide

theorem test_wellFormed_refuses_unknown_reverse : (.cmdProcessUnknown 0x02#8 [] : Instr).wellFormed = false := by decide

theorem test_wellFormed_refuses_param_n_zero : (.scriptParam .n 0 : Instr).wellFormed = false := by decide

theorem test_wellFormed_refuses_param_c_zero : (.scriptParam .c 0 : Instr).wellFormed = false := by decide

theorem test_wellFormed_accepts : [Instr.data .initiator 0x55#8, .escOther .initiator 0x31#8, .frame .initiator 0x7D#8 0x7D#8 [0x00#8], .addrOther .initiator 0x03#8, .cmdReserved .initiator 0x00#8, .scriptParam .n 1, .scriptParam .clockW 0,
    .scriptTick (2 ^ 64)].all Instr.wellFormed = true := by decide

/-- R8, D25: a line PARAM N=0 is refused. -/
theorem test_step_refuses_illFormed : refuses (step { base 2 with prog := [⟨.script, .initiator, 2#8 :: 0#8 :: encodeNat 0⟩] }) .illFormed = true := by decide

/-- R105: `R.state` has no value 4. -/
theorem test_step_refuses_undecodable : refuses (step { base 2 with prog := [⟨.enumRState, .initiator, [4#8]⟩] }) (.undecodable .unusedValue) = true := by decide

/-- R102: a frame with a wrong check byte is consumed and invalid (ChecksumMismatch); R154 has the right one, 0x21. -/
theorem test_step_takes_wrong_check_bytes : shows (step { base 2 with prog :=
      [⟨.frame, .responder, [0x7E#8, 0x02#8, 0x01#8, 0x7D#8, 0x5E#8, 0x11#8, 0x20#8, 0x88#8, 0x7E#8]⟩] })
    (fun t => t.prog == [] && (t.rx .responder).assembled && !(t.rx .responder).valid && (t.rx .responder).packet.payload == [0x7E#8, 0x11#8] &&
      t.host.label == some .checksumMismatch) = true := by decide +kernel

/-- R102: 7E 7E with no frame open: the first opens, the second closes an empty frame (FrameLengthError). -/
theorem test_step_takes_two_flags : shows (step ((base 2).withFetchWord 16 0x7E7E))
    (fun t => (t.rx .initiator).started && (t.rx .initiator).assembled && t.host.label == some .frameLengthError) = true := by decide


/-! ## Decoding: the words of the spec (R91 to R97, R100, R102, R105) and of this model's numbering (log 3) -/

/-- R91, R92, R95, R100: 01111110 is FLAG, 01111101 ESCAPE, any other byte DATA; after an ESCAPE any byte. -/
theorem test_decode_wireBytes : (reads ⟨.wireByte, .responder, [0x7E#8]⟩ (.flag .responder)
    && reads ⟨.wireByte, .responder, [0x7D#8]⟩ (.escape .responder)
    && reads ⟨.wireByte, .initiator, [0x5E#8]⟩ (.data .initiator 0x5E#8)
    && reads ⟨.afterEscape, .initiator, [0x7E#8]⟩ (.escaped .initiator 0x7E#8)) = true := by decide

/-- R93, R102. -/
theorem test_decode_wirePairs : (reads ⟨.wirePair, .responder, [0x7D#8, 0x5E#8]⟩ (.escFlag .responder)
    && reads ⟨.wirePair, .responder, [0x7D#8, 0x5D#8]⟩ (.escEscape .responder)
    && reads ⟨.wirePair, .responder, [0x7D#8, 0x31#8]⟩ (.escOther .responder 0x31#8)) = true := by decide

theorem test_decode_refuses : (rejects ⟨.wirePair, .responder, [0x7E#8, 0x5E#8]⟩ .notAnEscapePair && rejects ⟨.wireByte, .responder, []⟩ .wrongLength
    && rejects ⟨.enumStage, .responder, [8#8]⟩ .unusedValue && rejects ⟨.enumIState, .responder, [5#8]⟩ .unusedValue
    && rejects ⟨.encodeOp, .responder, [10#8]⟩ .noSuchOperation && rejects ⟨.queueOp, .responder, [0#8, 2#8]⟩ .badOperand) = true := by decide

/-- V-TX-12. -/
theorem test_decode_frame_V_TX_12 : (reads ⟨.frame, .responder, [0x7E#8, 0x02#8, 0x01#8, 0x7D#8, 0x5E#8, 0x11#8, 0x21#8, 0x88#8, 0x7E#8]⟩ (.frame .responder 0x02#8 0x01#8 [0x7E#8, 0x11#8])) = true := by decide +kernel

/-- V-TX-13 (a stuffed check byte) and V-TX-15. -/
theorem test_decode_frame_V_TX_13 : (reads ⟨.frame, .responder, [0x7E#8, 0x02#8, 0x01#8, 0x00#8, 0x5F#8, 0x7D#8, 0x5D#8, 0x0A#8, 0x7E#8]⟩ (.frame .responder 0x02#8 0x01#8 [0x00#8, 0x5F#8])
    && reads ⟨.frame, .responder, [0x7E#8, 0x02#8, 0x02#8, 0x33#8, 0x51#8, 0x3D#8, 0x7E#8]⟩ (.frame .responder 0x02#8 0x02#8 [0x33#8])) = true := by decide +kernel

/-- V-RX-7: the check bytes high-order first are not those of the content. -/
theorem test_decode_refuses_frames : (rejects ⟨.frame, .responder, [0x7E#8, 0x02#8, 0x01#8, 0x7D#8, 0x5E#8, 0x11#8, 0x88#8, 0x21#8, 0x7E#8]⟩ .badFcs
    && rejects ⟨.frame, .responder, [0x7E#8, 0x02#8, 0x01#8]⟩ .notAFrame
    && rejects ⟨.frame, .responder, [0x7E#8, 0x7E#8, 0x02#8, 0x7E#8]⟩ .notAFrame) = true := by decide +kernel

/-- R96, R97. -/
theorem test_decode_frames_and_fields : (reads ⟨.request, .initiator, []⟩ .request
    && reads ⟨.reply, .initiator, []⟩ .reply
    && reads ⟨.field, .initiator, [0x02#8, 0x01#8, 0x7E#8]⟩ (.fcs 0x02#8 0x01#8 [0x7E#8])
    && reads ⟨.addressByte, .responder, [0x01#8]⟩ (.addrInitiator .responder)
    && reads ⟨.addressByte, .responder, [0x02#8]⟩ (.addrResponder .responder)
    && reads ⟨.addressByte, .responder, [0x03#8]⟩ (.addrOther .responder 0x03#8)
    && reads ⟨.controlByte, .responder, [0x01#8]⟩ (.cmdComplement .responder)
    && reads ⟨.controlByte, .responder, [0x02#8]⟩ (.cmdReverse .responder)
    && reads ⟨.controlByte, .responder, [0x00#8]⟩ (.cmdReserved .responder 0x00#8)) = true := by decide

theorem test_decode_positions : (reads ⟨.routePosition, .initiator, [0#8, 0xEE#8]⟩ (.posAddress .initiator 0xEE#8)
    && reads ⟨.routePosition, .initiator, [1#8, 0xEE#8]⟩ (.posControl .initiator 0xEE#8)
    && reads ⟨.routePosition, .initiator, [2#8, 0xEE#8]⟩ (.posPayload .initiator 0xEE#8)
    && reads ⟨.routePosition, .initiator, [3#8, 0xEE#8]⟩ (.posFcsFirst .initiator 0xEE#8)
    && reads ⟨.routePosition, .initiator, [4#8, 0xEE#8]⟩ (.posFcsSecond .initiator 0xEE#8)
    && reads ⟨.routePosition, .initiator, [5#8, 0xEE#8]⟩ (.posOverflow .initiator 0xEE#8)) = true := by decide

/-- R105. -/
theorem test_decode_stages : (reads ⟨.enumStage, .responder, [0#8]⟩ (.stageStartFlag .responder)
    && reads ⟨.enumStage, .responder, [1#8]⟩ (.stageAddress .responder)
    && reads ⟨.enumStage, .responder, [2#8]⟩ (.stageControl .responder)
    && reads ⟨.enumStage, .responder, [3#8]⟩ (.stagePayload .responder)
    && reads ⟨.enumStage, .responder, [4#8]⟩ (.stageFcsHigh .responder)
    && reads ⟨.enumStage, .responder, [5#8]⟩ (.stageFcsLow .responder)
    && reads ⟨.enumStage, .responder, [6#8]⟩ (.stageEndFlag .responder)
    && reads ⟨.enumStage, .responder, [7#8]⟩ (.stageDone .responder)) = true := by decide

/-- R105. -/
theorem test_decode_stationStates : (reads ⟨.enumIState, .initiator, [0#8]⟩ .istatePrepare
    && reads ⟨.enumIState, .initiator, [1#8]⟩ .istateTransmit
    && reads ⟨.enumIState, .initiator, [2#8]⟩ .istateAwaitReply
    && reads ⟨.enumIState, .initiator, [3#8]⟩ .istateReceive
    && reads ⟨.enumIState, .initiator, [4#8]⟩ .istateProcess
    && reads ⟨.enumRState, .initiator, [0#8]⟩ .rstateWaitCommand
    && reads ⟨.enumRState, .initiator, [1#8]⟩ .rstateReceive
    && reads ⟨.enumRState, .initiator, [2#8]⟩ .rstateProcess
    && reads ⟨.enumRState, .initiator, [3#8]⟩ .rstateReply) = true := by decide

theorem test_decode_encodeArms : (reads ⟨.encodeOp, .responder, [0#8]⟩ (.encodeDone .responder)
    && reads ⟨.encodeOp, .responder, [1#8]⟩ (.encodeBackpressure .responder)
    && reads ⟨.encodeOp, .responder, [2#8]⟩ (.encodeStartFlag .responder)
    && reads ⟨.encodeOp, .responder, [3#8]⟩ (.encodeEndFlag .responder)
    && reads ⟨.encodeOp, .responder, [4#8]⟩ (.encodeEscape2 .responder)
    && reads ⟨.encodeOp, .responder, [5#8]⟩ (.encodeAddress .responder)
    && reads ⟨.encodeOp, .responder, [6#8]⟩ (.encodeControl .responder)
    && reads ⟨.encodeOp, .responder, [7#8]⟩ (.encodePayload .responder)
    && reads ⟨.encodeOp, .responder, [8#8]⟩ (.encodeFcsHigh .responder)
    && reads ⟨.encodeOp, .responder, [9#8]⟩ (.encodeFcsLow .responder)) = true := by decide

theorem test_decode_decodeArms : (reads ⟨.decodeOp, .initiator, [0#8]⟩ (.decodeStalled .initiator)
    && reads ⟨.decodeOp, .initiator, [1#8]⟩ (.decodeEmpty .initiator)
    && reads ⟨.decodeOp, .initiator, [2#8]⟩ (.decodeUnescape .initiator)
    && reads ⟨.decodeOp, .initiator, [3#8]⟩ (.decodeEscape .initiator)
    && reads ⟨.decodeOp, .initiator, [4#8]⟩ (.decodeFlagOpen .initiator)
    && reads ⟨.decodeOp, .initiator, [5#8]⟩ (.decodeFlagClose .initiator)
    && reads ⟨.decodeOp, .initiator, [6#8]⟩ (.decodeData .initiator)) = true := by decide

theorem test_decode_helpers : (reads ⟨.operation, .initiator, [0x01#8, 0x02#8]⟩ (.crc16 [0x01#8, 0x02#8])
    && reads ⟨.helper, .responder, [0#8]⟩ (.advance .responder)
    && reads ⟨.helper, .responder, [1#8, 0xEE#8, 0x3A#8]⟩ (.txInit .responder 0x3AEE#16)
    && reads ⟨.helper, .responder, [2#8, 0xAB#8]⟩ (.route .responder 0xAB#8)
    && reads ⟨.helper, .responder, [3#8]⟩ (.validateFrame .responder)
    && reads ⟨.helper, .responder, [4#8]⟩ (.rxInit .responder)
    && reads ⟨.helper, .responder, [5#8]⟩ (.rxOpen .responder)) = true := by decide

theorem test_decode_initiatorArms : (reads ⟨.initiatorOp, .initiator, [0#8]⟩ .initiatorPrepare
    && reads ⟨.initiatorOp, .initiator, [1#8]⟩ .initiatorTransmit
    && reads ⟨.initiatorOp, .initiator, [2#8]⟩ .initiatorAwaitStart
    && reads ⟨.initiatorOp, .initiator, [3#8]⟩ .initiatorAwaitTimeout
    && reads ⟨.initiatorOp, .initiator, [4#8]⟩ .initiatorReceive
    && reads ⟨.initiatorOp, .initiator, [5#8]⟩ .initiatorProcess) = true := by decide

theorem test_decode_responderArms : (reads ⟨.responderOp, .initiator, [0#8]⟩ .responderWaitCommand
    && reads ⟨.responderOp, .initiator, [1#8]⟩ .responderReceive
    && reads ⟨.responderOp, .initiator, [2#8]⟩ .responderProcess
    && reads ⟨.responderOp, .initiator, [3#8]⟩ .responderReplyPoll
    && reads ⟨.responderOp, .initiator, [4#8]⟩ .responderReplyPreempt
    && reads ⟨.responderOp, .initiator, [5#8]⟩ .responderReplySend) = true := by decide

theorem test_decode_queues : (reads ⟨.queueOp, .initiator, [0#8, 1#8]⟩ (.qIsFull .qb)
    && reads ⟨.queueOp, .initiator, [1#8, 0#8]⟩ (.qIsEmpty .qa)
    && reads ⟨.queueOp, .initiator, [2#8, 0#8, 0x55#8]⟩ (.qWriteByte .qa 0x55#8)
    && reads ⟨.queueOp, .initiator, [3#8, 1#8]⟩ (.qReadByte .qb)
    && reads ⟨.queueOp, .initiator, [4#8, 0#8]⟩ (.qReset .qa)) = true := by decide

theorem test_decode_timer_and_processor : (reads ⟨.timerOp, .initiator, [0#8]⟩ .timerNow
    && reads ⟨.timerOp, .initiator, [1#8, 0xE8#8, 0x07#8]⟩ (.timerSetDeadline 1000)
    && reads ⟨.timerOp, .initiator, [2#8, 1#8, 22#8, 0xE8#8, 0x07#8]⟩ (.timerIsExpired ⟨true, 22, 1000⟩)
    && reads ⟨.commandOp, .initiator, [0#8, 0x09#8, 0x01#8]⟩ (.cmdProcess 0x09#8 [0x01#8])
    && reads ⟨.commandOp, .initiator, [1#8, 0x01#8]⟩ (.cmdProcessComplement [0x01#8])
    && reads ⟨.commandOp, .initiator, [2#8, 0x01#8]⟩ (.cmdProcessReverse [0x01#8])
    && reads ⟨.commandOp, .initiator, [3#8, 0x09#8, 0x01#8]⟩ (.cmdProcessUnknown 0x09#8 [0x01#8])) = true := by decide

theorem test_decode_script : (reads ⟨.reset, .initiator, []⟩ .reset
    && reads ⟨.script, .initiator, [0#8]⟩ .scriptReset
    && reads ⟨.script, .initiator, [1#8, 0x02#8, 0x00#8, 0x01#8]⟩ (.scriptCfg 0x02#8 [0x00#8, 0x01#8])
    && reads ⟨.script, .initiator, [2#8, 1#8, 64#8]⟩ (.scriptParam .c 64)
    && reads ⟨.script, .initiator, [3#8, 0xD0#8, 0x0F#8]⟩ (.scriptClock 2000)
    && reads ⟨.script, .initiator, [4#8, 1#8]⟩ (.scriptTick 1)
    && reads ⟨.script, .initiator, [5#8]⟩ .scriptStepI
    && reads ⟨.script, .initiator, [6#8]⟩ .scriptStepR
    && reads ⟨.script, .initiator, [7#8, 48#8, 2#8]⟩ (.scriptLoop 48 2)
    && reads ⟨.script, .initiator, [8#8, 0#8, 0x7D#8]⟩ (.scriptPush .qa [0x7D#8])
    && reads ⟨.script, .initiator, [9#8, 1#8]⟩ (.scriptPop .qb)
    && reads ⟨.script, .initiator, [10#8, 3#8, 1#8, 17#8, 1#8, 0#8, 6#8]⟩ (.scriptExpect (.neg (.eq ⟨.rxPos, .responder, 0⟩ 6)))) = true := by decide

theorem test_table_words : (decodeTableWord 8 0x7E == some (.flag .initiator) && decodeTableWord 8 0x7D == some (.escape .initiator)
    && decodeTableWord 16 0x7D5E == some (.escFlag .initiator) && decodeTableWord 16 0x7D5D == some (.escEscape .initiator)
    && decodeTableWord 8 0x01 == some (.addrInitiator .initiator) && decodeTableWord 8 0x07 == some (.stageDone .initiator)) = true := by decide

/-- FLAG as the first instruction after reset opens a frame at the receiver of the initiator (R165). -/
theorem test_fetchWord_runs : shows (step (State.reset.withFetchWord 8 0x7E)) (fun s => (s.rx .initiator).started && s.prog.isEmpty) = true := by decide


/-! ## The script notation of R118 -/

/-- The text of a loop: braces are built from their codes. -/
def loopText (head body : String) : String :=
  head ++ String.ofList [Char.ofNat 0x7B] ++ body ++ String.ofList [Char.ofNat 0x7D]

/-- The lines of P1. -/
theorem test_notation_P1 : (parseScript (loopText "PARAM N=16 ; PARAM C=8 ; PARAM REPLY_TIMEOUT_MS=1000\nRESET -- start\nCFG cmd=02 payload=00 01 .. 03\nCLOCK 0\nLOOP 48 " " STEP I ; STEP R ") ==
    some [.scriptParam .n 16, .scriptParam .c 8, .scriptParam .replyTimeoutMs 1000, .scriptReset,
      .scriptCfg 0x02#8 [0x00#8, 0x01#8, 0x02#8, 0x03#8], .scriptClock 0, .scriptLoop 48 2, .scriptStepI, .scriptStepR]) = true := by decide +kernel

/-- R118 bounds no number: 2^64 + 2 is read from the text, put into a word and read back as it is. -/
theorem test_notation_wide : (parseScript "PARAM N=18446744073709551618" == some [.scriptParam .n (2 ^ 64 + 2)]
    && reads (encode (.scriptParam .n (2 ^ 64 + 2))) (.scriptParam .n (2 ^ 64 + 2))) = true := by decide +kernel

/-- Lines of P5, and a line that is none. -/
theorem test_notation_P5 : (parseScript "PUSH QA 7D\nTICK 1 ; POP QB" == some [.scriptPush .qa [0x7D#8], .scriptTick 1, .scriptPop .qb]
    && parseScript "JUMP 1" == none) = true := by decide +kernel


/-! ## The FCS engine (V-CRC) and the frame (V-TX) -/

/-- V-CRC-1 to V-CRC-7 and V-CRC-10. -/
theorem test_crc_vectors : (crc16 [0x01#8, 0x02#8] == 0xF183#16
    && crc16 [] == 0x0000#16
    && crc16 [0x00#8] == 0x1E0F#16
    && crc16 [0xFF#8] == 0x00FF#16
    && crc16 [0x02#8, 0x02#8, 0x00#8, 0x01#8, 0x02#8, 0x03#8, 0x04#8, 0x05#8, 0x06#8, 0x07#8, 0x08#8, 0x09#8, 0x0A#8, 0x0B#8, 0x0C#8, 0x0D#8, 0x0E#8, 0x0F#8] == 0x3AEE#16
    && crc16 [0x31#8, 0x32#8, 0x33#8, 0x34#8, 0x35#8, 0x36#8, 0x37#8, 0x38#8, 0x39#8] == 0xD64E#16
    && crc16 [0x01#8, 0x02#8, 0x0F#8, 0x0E#8, 0x0D#8, 0x0C#8, 0x0B#8, 0x0A#8, 0x09#8, 0x08#8, 0x07#8, 0x06#8, 0x05#8, 0x04#8, 0x03#8, 0x02#8, 0x01#8, 0x00#8] == 0xFA81#16
    && crc16 [0x02#8, 0x01#8, 0x00#8, 0x00#8, 0x00#8, 0x00#8, 0x00#8, 0x00#8, 0x00#8, 0x00#8, 0x00#8, 0x00#8, 0x00#8, 0x00#8, 0x00#8, 0x00#8, 0x14#8, 0xD2#8] == 0x7E7D#16) = true := by decide +kernel

/-- V-CRC-1. -/
theorem test_exec_crc16 : shows (exec (.crc16 [0x01#8, 0x02#8]) (base 2)) (fun s => s.host.ret == .word 0xF183#16) = true := by decide +kernel

/-- V-CRC-8: the low-order byte first. -/
theorem test_exec_fcs : shows (exec (.fcs 0x02#8 0x01#8 [0x7E#8, 0x11#8]) (base 2)) (fun s => s.host.ret == .bytes [0x21#8, 0x88#8]) = true := by decide +kernel

/-- V-TX-4, V-TX-5, V-TX-8, V-TX-15. -/
theorem test_frame_vectors : (frameBytes 0x02#8 0x01#8 [0x7E#8, 0x7D#8, 0x5E#8, 0x5D#8, 0x20#8, 0x00#8, 0x00#8, 0x00#8, 0x00#8, 0x00#8, 0x00#8, 0x00#8, 0x00#8, 0x00#8, 0x00#8, 0x00#8] ==
      [0x7E#8, 0x02#8, 0x01#8, 0x7D#8, 0x5E#8, 0x7D#8, 0x5D#8, 0x5E#8, 0x5D#8, 0x20#8, 0x00#8, 0x00#8, 0x00#8, 0x00#8, 0x00#8, 0x00#8, 0x00#8, 0x00#8, 0x00#8, 0x00#8, 0x00#8, 0x75#8, 0xED#8, 0x7E#8]
    && frameBytes 0x02#8 0x02#8 [0x7E#8, 0x7E#8, 0x7E#8, 0x7E#8, 0x7E#8, 0x7E#8, 0x7E#8, 0x7E#8, 0x7E#8, 0x7E#8, 0x7E#8, 0x7E#8, 0x7E#8, 0x7E#8, 0x7E#8, 0x7E#8] ==
      [0x7E#8, 0x02#8, 0x02#8, 0x7D#8, 0x5E#8, 0x7D#8, 0x5E#8, 0x7D#8, 0x5E#8, 0x7D#8, 0x5E#8, 0x7D#8, 0x5E#8, 0x7D#8, 0x5E#8, 0x7D#8, 0x5E#8, 0x7D#8, 0x5E#8, 0x7D#8, 0x5E#8, 0x7D#8, 0x5E#8, 0x7D#8, 0x5E#8, 0x7D#8, 0x5E#8, 0x7D#8, 0x5E#8, 0x7D#8, 0x5E#8, 0x7D#8, 0x5E#8, 0x7D#8, 0x5E#8, 0x0F#8, 0x74#8, 0x7E#8]
    && frameBytes 0x02#8 0x01#8 [0x00#8, 0x00#8, 0x00#8, 0x00#8, 0x00#8, 0x00#8, 0x00#8, 0x00#8, 0x00#8, 0x00#8, 0x00#8, 0x00#8, 0x00#8, 0x00#8, 0x14#8, 0xD2#8] ==
      [0x7E#8, 0x02#8, 0x01#8, 0x00#8, 0x00#8, 0x00#8, 0x00#8, 0x00#8, 0x00#8, 0x00#8, 0x00#8, 0x00#8, 0x00#8, 0x00#8, 0x00#8, 0x00#8, 0x00#8, 0x14#8, 0xD2#8, 0x7D#8, 0x5D#8, 0x7D#8, 0x5E#8, 0x7E#8]
    && frameBytes 0x02#8 0x02#8 [0x33#8] ==
      [0x7E#8, 0x02#8, 0x02#8, 0x33#8, 0x51#8, 0x3D#8, 0x7E#8]) = true := by decide +kernel


/-! ## EncodeStep, arm by arm (V-TX-10, the calls of the packet of V-TX-12) -/

/-- V-TX-10, call 1. -/
theorem test_exec_encodeStartFlag : sent (exec (.encodeStartFlag .initiator) (sending .startFlag 0 false 0x00#8 [])) [0x7E#8] .address 0 false 0x7E#8 = true := by decide

/-- V-TX-10, call 2. -/
theorem test_exec_encodeAddress : sent (exec (.encodeAddress .initiator) (sending .address 0 false 0x7E#8 [0x7E#8])) [0x7E#8, 0x02#8] .control 0 false 0x02#8 = true := by decide

/-- V-TX-10, call 4. -/
theorem test_exec_encodeControl : sent (exec (.encodeControl .initiator) (sending .control 0 false 0x02#8 [0x02#8])) [0x02#8, 0x01#8] .payload 0 false 0x01#8 = true := by decide

/-- V-TX-10, call 7: the byte 7E is stuffed, the stage stays. -/
theorem test_exec_encodePayload : sent (exec (.encodePayload .initiator) (sending .payload 0 false 0x01#8 [0x01#8])) [0x01#8, 0x7D#8] .payload 0 true 0x7E#8 = true := by decide

/-- V-TX-10, call 10. -/
theorem test_exec_encodeEscape2 : sent (exec (.encodeEscape2 .initiator) (sending .payload 0 true 0x7E#8 [0x7D#8])) [0x7D#8, 0x5E#8] .payload 1 false 0x7E#8 = true := by decide

/-- V-TX-10, call 13. -/
theorem test_exec_encodePayload_plain : sent (exec (.encodePayload .initiator) (sending .payload 1 false 0x7E#8 [0x5E#8])) [0x5E#8, 0x11#8] .fcsHigh 2 false 0x11#8 = true := by decide

/-- V-TX-10, call 16. -/
theorem test_exec_encodeFcsHigh : sent (exec (.encodeFcsHigh .initiator) (sending .fcsHigh 2 false 0x11#8 [0x11#8])) [0x11#8, 0x21#8] .fcsLow 2 false 0x21#8 = true := by decide

/-- V-TX-10, call 19. -/
theorem test_exec_encodeFcsLow : sent (exec (.encodeFcsLow .initiator) (sending .fcsLow 2 false 0x21#8 [0x21#8])) [0x21#8, 0x88#8] .endFlag 2 false 0x88#8 = true := by decide

/-- V-TX-10, call 22. -/
theorem test_exec_encodeEndFlag : sent (exec (.encodeEndFlag .initiator) (sending .endFlag 2 false 0x88#8 [0x88#8])) [0x88#8, 0x7E#8] .done 2 false 0x7E#8 = true := by decide

/-- V-TX-10, call 23. -/
theorem test_exec_encodeDone : sent (exec (.encodeDone .initiator) (sending .done 2 false 0x7E#8 [0x88#8, 0x7E#8])) [0x88#8, 0x7E#8] .done 2 false 0x7E#8 = true := by decide

/-- V-TX-10, call 3: `C = 2`. -/
theorem test_exec_encodeBackpressure : (sent (exec (.encodeBackpressure .initiator) { sending .control 0 false 0x02#8 [0x7E#8, 0x02#8] with par := ⟨2, 2, 2, 1000, 32⟩ })
    [0x7E#8, 0x02#8] .control 0 false 0x02#8) = true := by decide

/-- R106, R143: the state selects the StartFlag arm, whichever row calls; only that row is told that it is the one (log 11). -/
theorem test_exec_encode_selects : (sent (exec (.encodeEndFlag .initiator) (sending .startFlag 0 false 0x00#8 [])) [0x7E#8] .address 0 false 0x7E#8
    && shows (exec (.encodeEndFlag .initiator) (sending .startFlag 0 false 0x00#8 [])) (fun s => s.host.ret == .bool false)
    && shows (exec (.encodeStartFlag .initiator) (sending .startFlag 0 false 0x00#8 [])) (fun s => s.host.ret == .bool true)) = true := by decide

/-- R148: the cursor of a payload of two bytes is 0 or 1. -/
theorem test_exec_encodePayload_outside : faults (exec (.encodePayload .initiator) (sending .payload 2 false 0x00#8 [])) = true := by decide

/-- R147. -/
theorem test_exec_advance : sent (exec (.advance .initiator) (sending .control 5 false 0x00#8 [])) [] .payload 0 false 0x00#8 = true := by decide

/-- R29, with the CRC of V-I-1. -/
theorem test_exec_txInit : shows (exec (.txInit .responder 0x3AEE#16) (base 2)) (fun s => s.tx .responder == ⟨.startFlag, 0, 0xEE#8, 0x3A#8, false, 0x00#8⟩) = true := by decide


/-! ## DecodeStep, Route, ValidateFrame (V-RX) -/

/-- V-RX-22. -/
theorem test_exec_decodeStalled : shows (exec (.decodeStalled .responder) (hearing (receiving true true false 6) [0x11#8, 0x22#8]))
    (fun s => s.qa == [0x11#8, 0x22#8] && s.rx .responder == receiving true true false 6) = true := by decide

/-- V-RX-23. -/
theorem test_exec_decodeEmpty : shows (exec (.decodeEmpty .responder) (hearing (rxInit 2) []))
    (fun s => s.rx .responder == rxInit 2 && s.host.label == some .backpressure) = true := by decide

/-- V-RX-24. -/
theorem test_exec_decodeUnescape : shows (exec (.decodeUnescape .responder) (hearing (receiving true false true 3) [0x7D#8]))
    (fun s => (s.rx .responder).packet.payload == [0x00#8, 0x5D#8] && (s.rx .responder).pos == 4
      && !(s.rx .responder).unescPending && s.qa == []) = true := by decide

/-- V-RX-25. -/
theorem test_exec_decodeEscape : shows (exec (.decodeEscape .responder) (hearing (rxInit 2) [0x7D#8]))
    (fun s => s.rx .responder == receiving false false true 0) = true := by decide

/-- V-RX-26. -/
theorem test_exec_decodeFlagOpen : shows (exec (.decodeFlagOpen .responder) (hearing (receiving false false false 5) [0x7E#8]))
    (fun s => s.rx .responder == receiving true false false 0) = true := by decide

/-- V-RX-8: the second of two flags. -/
theorem test_exec_decodeFlagClose : shows (exec (.decodeFlagClose .responder) (hearing (receiving true false false 0) [0x7E#8]))
    (fun s => (s.rx .responder).assembled && !(s.rx .responder).valid && s.host.label == some .frameLengthError) = true := by decide +kernel

/-- V-RX-13, the first byte. -/
theorem test_exec_decodeData : shows (exec (.decodeData .responder) (hearing (rxInit 2) [0x55#8, 0x66#8]))
    (fun s => (s.rx .responder).packet.address == 0x55#8 && (s.rx .responder).pos == 1 && s.qa == [0x66#8]) = true := by decide

/-- R106, R165: the byte at the head of the queue selects the arm that opens a frame, whichever row calls (log 11). -/
theorem test_exec_decode_selects : (shows (exec (.decodeData .responder) (hearing (rxInit 2) [0x7E#8])) (fun s => (s.rx .responder).started && (s.rx .responder).pos == 0 && s.qa == [] && s.host.ret == .bool false)
    && shows (exec (.decodeFlagOpen .responder) (hearing (rxInit 2) [0x7E#8])) (fun s => s.host.ret == .bool true)) = true := by decide

/-- V-RX-27. -/
theorem test_exec_route : shows (exec (.route .responder 0xEE#8) ((base 16).setRx .responder { rxInit 16 with pos := 18 }))
    (fun s => (s.rx .responder).fcsFirst == 0xEE#8 && (s.rx .responder).pos == 19) = true := by decide

/-- V-RX-28. -/
theorem test_exec_route_overflow : shows (exec (.route .responder 0xAB#8) ((base 16).setRx .responder { rxInit 16 with pos := 20 }))
    (fun s => s.rx .responder == { rxInit 16 with pos := 21 }) = true := by decide

/-- V-RX-1. -/
theorem test_exec_validateFrame : shows (exec (.validateFrame .responder) ((base 2).setRx .responder closed12))
    (fun s => (s.rx .responder).valid && s.result .responder == ⟨0x01#8, [0x7E#8, 0x11#8]⟩) = true := by decide +kernel

/-- V-RX-7. -/
theorem test_exec_validateFrame_checksum : shows (exec (.validateFrame .responder) ((base 2).setRx .responder { closed12 with fcsFirst := 0x88#8, fcsSecond := 0x21#8 }))
    (fun s => !(s.rx .responder).valid && s.host.label == some .checksumMismatch) = true := by decide +kernel

/-- R38. -/
theorem test_exec_rxInit : shows (exec (.rxInit .responder) ((base 2).setRx .responder closed12)) (fun s => s.rx .responder == rxInit 2) = true := by decide

/-- R39. -/
theorem test_exec_rxOpen : shows (exec (.rxOpen .responder) ((base 2).setRx .responder closed12))
    (fun s => s.rx .responder == receiving true false false 0) = true := by decide


/-! ## Wire rows, frames and fields at a receiver -/

/-- V-RX-26. -/
theorem test_exec_flag : shows (exec (.flag .responder) (hearing (receiving false false false 5) []))
    (fun s => s.rx .responder == receiving true false false 0) = true := by decide

/-- V-RX-12: after an ESCAPE the flag is the data byte 5E. -/
theorem test_exec_flag_escaped : shows (exec (.flag .responder) (hearing (receiving true false true 2) []))
    (fun s => (s.rx .responder).packet.payload == [0x5E#8, 0x00#8] && !(s.rx .responder).assembled) = true := by decide +kernel

/-- V-RX-25. -/
theorem test_exec_escape : shows (exec (.escape .responder) (base 2)) (fun s => s.rx .responder == receiving false false true 0) = true := by decide

/-- V-RX-13, the last byte. -/
theorem test_exec_data : shows (exec (.data .responder 0x99#8) (hearing (receiving true false false 0) []))
    (fun s => (s.rx .responder).packet.address == 0x99#8 && (s.rx .responder).pos == 1) = true := by decide

/-- V-RX-24. -/
theorem test_exec_escaped : shows (exec (.escaped .responder 0x7D#8) (hearing (receiving true false true 3) []))
    (fun s => (s.rx .responder).packet.payload == [0x00#8, 0x5D#8] && (s.rx .responder).pos == 4) = true := by decide

/-- V-RX-1, bytes 7D 5E. -/
theorem test_exec_escFlag : shows (exec (.escFlag .responder) (hearing (receiving true false false 2) []))
    (fun s => (s.rx .responder).packet.payload == [0x7E#8, 0x00#8] && (s.rx .responder).pos == 3) = true := by decide

/-- V-RX-18, bytes 7D 5D. -/
theorem test_exec_escEscape : shows (exec (.escEscape .responder) (hearing (receiving true false false 2) []))
    (fun s => (s.rx .responder).packet.payload == [0x7D#8, 0x00#8] && (s.rx .responder).pos == 3) = true := by decide

/-- V-RX-15, bytes 7D 31. -/
theorem test_exec_escOther : shows (exec (.escOther .responder 0x31#8) (hearing (receiving true false false 2) []))
    (fun s => (s.rx .responder).packet.payload == [0x11#8, 0x00#8] && (s.rx .responder).pos == 3) = true := by decide

/-- V-RX-1. -/
theorem test_exec_frame_valid : shows (exec (.frame .responder 0x02#8 0x01#8 [0x7E#8, 0x11#8]) (base 2))
    (fun s => s.rx .responder == { closed12 with valid := true } && s.result .responder == ⟨0x01#8, [0x7E#8, 0x11#8]⟩) = true := by decide +kernel

/-- V-RX-2. -/
theorem test_exec_frame_address : shows (exec (.frame .responder 0x01#8 0x01#8 [0x7E#8, 0x11#8]) (base 2))
    (fun s => !(s.rx .responder).valid && (s.rx .responder).pos == 6 && s.host.label == some .addressMismatch) = true := by decide +kernel

/-- R107 and V-RX-1. -/
theorem test_exec_request : shows (exec .request { base 2 with cfg := ⟨0x01#8, [0x7E#8, 0x11#8]⟩ })
    (fun s => s.rx .responder == { closed12 with valid := true }) = true := by decide +kernel

/-- R107 and V-TX-14. -/
theorem test_exec_reply : shows (exec .reply ((base 2).setResult .responder ⟨0x01#8, [0x7E#8, 0x11#8]⟩))
    (fun s => (s.rx .initiator).valid && s.result .initiator == ⟨0x01#8, [0x81#8, 0xEE#8]⟩) = true := by decide +kernel

/-- R96, R97, R168, R169. -/
theorem test_exec_addrInitiator : shows (exec (.addrInitiator .responder) ((base 2).setRx .responder (receiving true false false 0)))
    (fun s => (s.rx .responder).packet.address == 0x01#8 && s.host.ret == .bool false) = true := by decide

/-- R96, R97, R168, R169. -/
theorem test_exec_addrResponder : shows (exec (.addrResponder .responder) ((base 2).setRx .responder (receiving true false false 0)))
    (fun s => (s.rx .responder).packet.address == 0x02#8 && s.host.ret == .bool true) = true := by decide

/-- R96, R97, R168, R169. -/
theorem test_exec_addrOther : shows (exec (.addrOther .responder 0x03#8) ((base 2).setRx .responder (receiving true false false 0)))
    (fun s => (s.rx .responder).packet.address == 0x03#8 && s.host.ret == .bool false) = true := by decide

/-- R96, R97, R168, R169. -/
theorem test_exec_cmdComplement : shows (exec (.cmdComplement .responder) ((base 2).setRx .responder (receiving true false false 1)))
    (fun s => (s.rx .responder).packet.control == 0x01#8 && s.host.ret == .command .complement) = true := by decide

/-- R96, R97, R168, R169. -/
theorem test_exec_cmdReverse : shows (exec (.cmdReverse .responder) ((base 2).setRx .responder (receiving true false false 1)))
    (fun s => (s.rx .responder).packet.control == 0x02#8 && s.host.ret == .command .reverse) = true := by decide

/-- R96, R97, R168, R169. -/
theorem test_exec_cmdReserved : shows (exec (.cmdReserved .responder 0x09#8) ((base 2).setRx .responder (receiving true false false 1)))
    (fun s => (s.rx .responder).packet.control == 0x09#8 && s.host.ret == .command (.unknown 0x09#8)) = true := by decide

/-- R96, R97, R168, R169. -/
theorem test_exec_posAddress : shows (exec (.posAddress .responder 0xAB#8) ((base 2).setRx .responder (receiving true false false 0)))
    (fun s => (s.rx .responder).packet.address == 0xAB#8) = true := by decide

/-- R96, R97, R168, R169. -/
theorem test_exec_posControl : shows (exec (.posControl .responder 0xAB#8) ((base 2).setRx .responder (receiving true false false 1)))
    (fun s => (s.rx .responder).packet.control == 0xAB#8) = true := by decide

/-- R96, R97, R168, R169. -/
theorem test_exec_posPayload : shows (exec (.posPayload .responder 0xAB#8) ((base 2).setRx .responder (receiving true false false 3)))
    (fun s => (s.rx .responder).packet.payload == [0x00#8, 0xAB#8]) = true := by decide

/-- R96, R97, R168, R169. -/
theorem test_exec_posFcsFirst : shows (exec (.posFcsFirst .responder 0xAB#8) ((base 2).setRx .responder (receiving true false false 4)))
    (fun s => (s.rx .responder).fcsFirst == 0xAB#8) = true := by decide

/-- R96, R97, R168, R169. -/
theorem test_exec_posFcsSecond : shows (exec (.posFcsSecond .responder 0xAB#8) ((base 2).setRx .responder (receiving true false false 5)))
    (fun s => (s.rx .responder).fcsSecond == 0xAB#8) = true := by decide

/-- R96, R97, R168, R169. -/
theorem test_exec_posOverflow : shows (exec (.posOverflow .responder 0xAB#8) ((base 2).setRx .responder (receiving true false false 6)))
    (fun s => s.rx .responder == receiving true false false 7) = true := by decide

/-- R168: position 1 takes the control byte, whatever row names the byte (log 14). -/
theorem test_exec_posAddress_elsewhere : (shows (exec (.posAddress .responder 0xAB#8) ((base 2).setRx .responder (receiving true false false 1))) (fun s => (s.rx .responder).packet.control == 0xAB#8 && (s.rx .responder).pos == 2 && s.host.ret == .bool false)
    && shows (exec (.addrInitiator .responder) ((base 2).setRx .responder (receiving true false false 1))) (fun s => (s.rx .responder).packet.control == 0x01#8 && s.host.ret == .nothing)) = true := by decide


/-! ## Enumeration numbers (R105) -/

theorem test_exec_stages : (shows (exec (.stageStartFlag .initiator) (sending .startFlag 0 false 0x00#8 [])) (fun s => s.host.ret == .bool true)
    && shows (exec (.stageAddress .initiator) (sending .address 0 false 0x00#8 [])) (fun s => s.host.ret == .bool true)
    && shows (exec (.stageControl .initiator) (sending .control 0 false 0x00#8 [])) (fun s => s.host.ret == .bool true)
    && shows (exec (.stagePayload .initiator) (sending .payload 0 false 0x00#8 [])) (fun s => s.host.ret == .bool true)
    && shows (exec (.stageFcsHigh .initiator) (sending .fcsHigh 0 false 0x00#8 [])) (fun s => s.host.ret == .bool true)
    && shows (exec (.stageFcsLow .initiator) (sending .fcsLow 0 false 0x00#8 [])) (fun s => s.host.ret == .bool true)
    && shows (exec (.stageEndFlag .initiator) (sending .endFlag 0 false 0x00#8 [])) (fun s => s.host.ret == .bool true)
    && shows (exec (.stageDone .initiator) (sending .done 0 false 0x00#8 [])) (fun s => s.host.ret == .bool true)) = true := by decide

theorem test_exec_istates : (shows (exec .istatePrepare (iAt .prepare (base 2))) (fun s => s.host.ret == .bool true)
    && shows (exec .istateTransmit (iAt .transmit (base 2))) (fun s => s.host.ret == .bool true)
    && shows (exec .istateAwaitReply (iAt .awaitReply (base 2))) (fun s => s.host.ret == .bool true)
    && shows (exec .istateReceive (iAt .receive (base 2))) (fun s => s.host.ret == .bool true)
    && shows (exec .istateProcess (iAt .process (base 2))) (fun s => s.host.ret == .bool true)) = true := by decide

theorem test_exec_rstates : (shows (exec .rstateWaitCommand (rAt .waitCommand (base 2))) (fun s => s.host.ret == .bool true)
    && shows (exec .rstateReceive (rAt .receive (base 2))) (fun s => s.host.ret == .bool true)
    && shows (exec .rstateProcess (rAt .process (base 2))) (fun s => s.host.ret == .bool true)
    && shows (exec .rstateReply (rAt .reply (base 2))) (fun s => s.host.ret == .bool true)) = true := by decide

theorem test_exec_state_other : shows (exec .rstateReply (base 2)) (fun s => s.host.ret == .bool false) = true := by decide


/-! ## The initiator (V-I) -/

/-- V-I-1, with the packet of V-TX-12. -/
theorem test_exec_initiatorPrepare : shows (exec .initiatorPrepare { base 2 with cfg := ⟨0x01#8, [0x7E#8, 0x11#8]⟩ })
    (fun s => s.ini.state == .transmit && s.txPacket .initiator == packet12
      && s.tx .initiator == ⟨.startFlag, 0, 0x21#8, 0x88#8, false, 0x00#8⟩ && s.qa == []) = true := by decide +kernel

/-- V-I-2, with the packet of V-TX-12. -/
theorem test_exec_initiatorTransmit : shows (exec .initiatorTransmit (iAt .transmit (sending .fcsLow 2 false 0x21#8 [])))
    (fun s => s.qa == [0x88#8] && s.ini.state == .transmit && (s.tx .initiator).stage == .endFlag) = true := by decide

/-- V-I-3. -/
theorem test_exec_initiatorTransmit_done : shows (exec .initiatorTransmit { iAt .transmit (sending .endFlag 2 false 0x88#8 []) with clock := 22 })
    (fun s => s.qa == [0x7E#8] && s.ini.state == .awaitReply && s.ini.deadline == ⟨true, 22, 1000⟩) = true := by decide

/-- V-I-7. -/
theorem test_exec_initiatorAwaitStart : shows (exec .initiatorAwaitStart (awaiting 5000 [0x7E#8, 0x01#8]))
    (fun s => s.ini.state == .receive && !s.ini.deadline.armed && (s.rx .initiator).started && s.qb == [0x01#8]) = true := by decide

/-- V-I-6. -/
theorem test_exec_initiatorAwaitTimeout : shows (exec .initiatorAwaitTimeout (awaiting 1022 []))
    (fun s => s.ini.state == .prepare && !s.ini.deadline.armed && s.host.label == some .replyTimeout) = true := by decide

/-- V-I-9. -/
theorem test_exec_initiatorAwaitTimeout_byte : shows (exec .initiatorAwaitTimeout (awaiting 1022 [0x01#8]))
    (fun s => s.ini.state == .prepare && s.qb == [] && (s.rx .initiator).pos == 1) = true := by decide

/-- V-I-5: 999 ms have elapsed. -/
theorem test_exec_stepI_idle : shows (exec .scriptStepI (awaiting 1021 [])) (fun s => s.ini == (awaiting 1021 []).ini) = true := by decide

/-- V-I-11. -/
theorem test_exec_initiatorReceive : shows (exec .initiatorReceive
      { iAt .receive ((base 2).setRx .initiator (receiving true false false 1)) with qb := [0x7E#8] })
    (fun s => s.ini.state == .prepare && s.rx .initiator == rxInit 2 && s.qb == []) = true := by decide +kernel

/-- V-I-10, with the reply of V-TX-14. -/
theorem test_exec_initiatorReceive_valid : shows (exec .initiatorReceive
      { iAt .receive ((base 2).setRx .initiator { closed12 with assembled := false, packet := ⟨0x01#8, 0x01#8, [0x81#8, 0xEE#8]⟩, fcsFirst := 0xF2#8, fcsSecond := 0x0E#8 }) with qb := [0x7E#8] })
    (fun s => s.ini.state == .process && (s.rx .initiator).valid && s.result .initiator == ⟨0x01#8, [0x81#8, 0xEE#8]⟩) = true := by decide +kernel

/-- V-I-13. -/
theorem test_exec_initiatorProcess : shows (exec .initiatorProcess (iAt .process ((base 2).setResult .initiator ⟨0x02#8, [0x0F#8, 0x00#8]⟩)))
    (fun s => s.ini.state == .prepare && s.host.ready == [⟨0x02#8, [0x0F#8, 0x00#8]⟩]) = true := by decide


/-! ## The responder (V-R) -/

/-- V-R-1. -/
theorem test_exec_responderWaitCommand : shows (exec .responderWaitCommand { base 2 with qa := [0x7E#8, 0x02#8] })
    (fun s => s.res.state == .receive && (s.rx .responder).started && s.qa == [0x02#8]) = true := by decide

/-- V-R-2. -/
theorem test_exec_responderWaitCommand_noise : shows (exec .responderWaitCommand { base 2 with qa := [0x55#8] })
    (fun s => s.res.state == .waitCommand && (s.rx .responder).packet.address == 0x55#8) = true := by decide

/-- V-R-3 with V-RX-6. -/
theorem test_exec_responderReceive : shows (exec .responderReceive (rAt .receive (hearing { closed12 with assembled := false, fcsFirst := 0x20#8 } [0x7E#8])))
    (fun s => s.res.state == .waitCommand && s.rx .responder == rxInit 2 && s.qb == []) = true := by decide +kernel

/-- V-RX-1. -/
theorem test_exec_responderReceive_valid : shows (exec .responderReceive (rAt .receive (hearing { closed12 with assembled := false } [0x7E#8])))
    (fun s => s.res.state == .process && s.result .responder == ⟨0x01#8, [0x7E#8, 0x11#8]⟩) = true := by decide +kernel

/-- V-R-4, with V-TX-14. -/
theorem test_exec_responderProcess : shows (exec .responderProcess (rAt .process ((base 2).setResult .responder ⟨0x01#8, [0x7E#8, 0x11#8]⟩)))
    (fun s => s.res.state == .reply && s.txPacket .responder == ⟨0x01#8, 0x01#8, [0x81#8, 0xEE#8]⟩
      && (s.tx .responder).fcsFirst == 0xF2#8 && (s.tx .responder).fcsSecond == 0x0E#8) = true := by decide +kernel

/-- V-R-5. -/
theorem test_exec_responderReplyPreempt : shows (exec .responderReplyPreempt (replying .control [0x7E#8, 0x02#8] [0x7E#8, 0x01#8]))
    (fun s => s.res.state == .receive && s.rx .responder == rxOpen 2 && (s.tx .responder).stage == .control
      && s.qb == [0x7E#8, 0x01#8] && s.qa == [0x02#8]) = true := by decide

/-- V-R-6. -/
theorem test_exec_responderReplyPoll : shows (exec .responderReplyPoll (replying .control [0x55#8] []))
    (fun s => s.res.state == .reply && (s.rx .responder).packet.address == 0x55#8 && s.qb == []) = true := by decide

/-- V-R-7. -/
theorem test_exec_responderReplySend : shows (exec .responderReplySend (replying .control [] []))
    (fun s => s.res.state == .reply && s.qb == [0x02#8] && (s.tx .responder).stage == .payload) = true := by decide

/-- V-R-8. -/
theorem test_exec_responderReplySend_done : shows (exec .responderReplySend (replying .endFlag [] []))
    (fun s => s.res.state == .waitCommand && s.qb == [0x7E#8] && (s.tx .responder).stage == .done
      && s.rx .responder == rxInit 2) = true := by decide

/-- V-R-9. -/
theorem test_exec_stepR_preempts : shows (exec .scriptStepR (replying .endFlag [0x7E#8] []))
    (fun s => s.res.state == .receive && s.qb == [] && (s.tx .responder).stage == .endFlag) = true := by decide


/-! ## The external collaborators (V-CMD, V-TMR) and the script -/

/-- R232, R233. -/
theorem test_exec_queues : (shows (exec (.qIsFull .qa) { base 2 with qa := List.replicate 8 0x00#8 }) (fun s => s.host.ret == .bool true)
    && shows (exec (.qIsEmpty .qb) { base 2 with qb := [0x00#8] }) (fun s => s.host.ret == .bool false)) = true := by decide

/-- R234, U1. -/
theorem test_exec_qWriteByte : (shows (exec (.qWriteByte .qa 0x22#8) { base 2 with qa := [0x11#8] }) (fun s => s.qa == [0x11#8, 0x22#8])
    && refuses (exec (.qWriteByte .qa 0x22#8) { base 2 with qa := List.replicate 8 0x00#8 }) .queueFull) = true := by decide

/-- R235, U2. -/
theorem test_exec_qReadByte : (shows (exec (.qReadByte .qb) { base 2 with qb := [0x11#8, 0x22#8] }) (fun s => s.qb == [0x22#8] && s.host.ret == .byte 0x11#8)
    && refuses (exec (.qReadByte .qb) (base 2)) .queueEmpty) = true := by decide

/-- R236. -/
theorem test_exec_qReset : shows (exec (.qReset .qb) { base 2 with qa := [0x11#8], qb := [0x22#8] }) (fun s => s.qa == [0x11#8] && s.qb == []) = true := by decide

/-- R239. -/
theorem test_exec_timerNow : shows (exec .timerNow { base 2 with clock := 22 }) (fun s => s.host.ret == .time 22) = true := by decide

/-- V-I-3. -/
theorem test_exec_timerSetDeadline : shows (exec (.timerSetDeadline 1000) { base 2 with clock := 22 }) (fun s => s.host.ret == .deadline ⟨true, 22, 1000⟩) = true := by decide

/-- V-TMR-1 to V-TMR-6. -/
theorem test_exec_timerIsExpired : (shows (exec (.timerIsExpired ⟨true, 100, 50⟩) { base 2 with clock := 149 }) (fun s => s.host.ret == .bool false)
    && shows (exec (.timerIsExpired ⟨true, 100, 50⟩) { base 2 with clock := 150 }) (fun s => s.host.ret == .bool true)
    && shows (exec (.timerIsExpired ⟨true, 0xFFFFFFF0, 0x20⟩) { base 2 with clock := 0x0F }) (fun s => s.host.ret == .bool false)
    && shows (exec (.timerIsExpired ⟨true, 0xFFFFFFF0, 0x20⟩) { base 2 with clock := 0x10 }) (fun s => s.host.ret == .bool true)
    && shows (exec (.timerIsExpired ⟨true, 0xFFFFFFF0, 0x20⟩) { base 2 with clock := 0xFFFFFFF8 }) (fun s => s.host.ret == .bool false)
    && shows (exec (.timerIsExpired ⟨true, 7, 0⟩) { base 2 with clock := 7 }) (fun s => s.host.ret == .bool true)) = true := by decide

/-- V-CMD-3 to V-CMD-6, S5, S6. -/
theorem test_exec_cmdProcess : (shows (exec (.cmdProcess 0x01#8 [0x7E#8, 0x11#8]) (base 2)) (fun s => s.host.ret == .bytes [0x81#8, 0xEE#8])
    && shows (exec (.cmdProcess 0x02#8 [0x7E#8, 0x11#8]) (base 2)) (fun s => s.host.ret == .bytes [0x11#8, 0x7E#8])
    && shows (exec (.cmdProcess 0x09#8 [0x01#8, 0x02#8]) (base 2)) (fun s => s.host.ret == .bytes [0x01#8, 0x02#8])
    && shows (exec (.cmdProcess 0x00#8 [0xFF#8, 0x00#8]) (base 2)) (fun s => s.host.ret == .bytes [0xFF#8, 0x00#8])
    && shows (exec (.cmdProcessComplement [0x00#8, 0xFF#8, 0x55#8]) (base 2)) (fun s => s.host.ret == .bytes [0xFF#8, 0x00#8, 0xAA#8])
    && shows (exec (.cmdProcessReverse [0x00#8, 0x01#8, 0x02#8]) (base 2)) (fun s => s.host.ret == .bytes [0x02#8, 0x01#8, 0x00#8])
    && shows (exec (.cmdProcessUnknown 0x09#8 [0x01#8, 0x02#8]) (base 2)) (fun s => s.host.ret == .bytes [0x01#8, 0x02#8])) = true := by decide

/-- R290, R292, R118. -/
theorem test_exec_reset : (shows (exec .reset { iAt .process (hearing closed12 [0x11#8]) with clock := 7 })
      (fun s => s.ini == Initiator.reset 2 && s.rx .responder == rxInit 2 && s.qa == [0x11#8] && s.clock == 7)
    && shows (exec .scriptReset (hearing closed12 [0x11#8])) (fun s => s.rx .responder == rxInit 2 && s.qa == [])) = true := by decide

/-- R118, R45. -/
theorem test_exec_scriptCfg : shows (exec (.scriptCfg 0x01#8 [0x7E#8, 0x11#8]) (base 2))
    (fun s => s.cfg.command == 0x01#8 && s.cfgPayload == [0x7E#8, 0x11#8]) = true := by decide

/-- R295: the order of CFG and PARAM N does not matter. -/
theorem test_cfg_before_param : (shows (andThen (exec (.scriptCfg 0x01#8 [0x7E#8, 0x11#8]) State.reset) (exec (.scriptParam .n 2)))
      (fun s => s.par.n == 2 && s.cfg.command == 0x01#8 && s.cfgPayload == [0x7E#8, 0x11#8])
    && shows (andThen (exec (.scriptParam .n 2) State.reset) (exec (.scriptCfg 0x01#8 [0x7E#8, 0x11#8])))
      (fun s => s.par.n == 2 && s.cfg.command == 0x01#8 && s.cfgPayload == [0x7E#8, 0x11#8])) = true := by decide

/-- R8, R118. -/
theorem test_exec_scriptParam : (shows (exec (.scriptParam .c 64) (base 2)) (fun s => s.par.capQA == 64 && s.par.capQB == 64)
    && shows (exec (.scriptParam .n 16) (base 2)) (fun s => s.par.n == 16 && s.ini == Initiator.reset 16)
    && refuses (exec (.scriptParam .c 1) { base 2 with qa := [0x00#8, 0x00#8] }) .badParameter) = true := by decide

/-- R118, R239: the clock wraps. -/
theorem test_exec_clock : (shows (exec (.scriptClock 2000) (base 2)) (fun s => s.clock == 2000)
    && shows (exec (.scriptTick 2) { base 2 with clock := 0xFFFFFFFF }) (fun s => s.clock == 1)) = true := by decide

/-- R118. -/
theorem test_exec_scriptLoop : (shows (exec (.scriptLoop 2 1) { base 2 with prog := [encode .scriptStepI, encode .scriptStepR] })
      (fun s => s.prog == [encode .scriptStepI, encode .scriptStepI, encode .scriptStepR])
    && refuses (exec (.scriptLoop 2 1) (base 2)) .loopBody) = true := by decide

/-- R118, U1. -/
theorem test_exec_scriptPush : (shows (exec (.scriptPush .qa [0x7D#8, 0x7E#8]) (base 2)) (fun s => s.qa == [0x7D#8, 0x7E#8])
    && refuses (exec (.scriptPush .qa (List.replicate 9 0x00#8)) (base 2)) .queueFull
    && shows (exec (.scriptPop .qb) { base 2 with qb := [0x11#8] }) (fun s => s.qb == [])) = true := by decide

/-- R105, R118: `Transmit` is number 1; an empty queue has no byte 0. -/
theorem test_exec_scriptExpect : (shows (exec (.scriptExpect (.eq ⟨.iState, .initiator, 0⟩ 1)) (iAt .transmit (base 2))) (fun s => s.host.ret == .bool true)
    && shows (exec (.scriptExpect (.lt ⟨.outQueueByte, .responder, 0⟩ 256)) (base 2)) (fun s => s.host.ret == .bool false)) = true := by decide


/-! ## Witnesses: states and operands that meet the hypotheses of the statements, clause by clause -/

theorem witness_StepRunsTheDecodedInstruction : (∃ (s : State) (w : FetchWord) (rest : List FetchWord) (i : Instr),
      s.prog = w :: rest ∧ decode w = .ok i ∧ i.wellFormed = true) ∧
    (∃ (s : State) (w : FetchWord) (rest : List FetchWord) (i : Instr),
      s.prog = w :: rest ∧ decode w = .ok i ∧ i.wellFormed = false) ∧
    (∃ (s : State) (w : FetchWord) (rest : List FetchWord) (e : DecodeError), s.prog = w :: rest ∧ decode w = .error e ∧ w.fmt.onWire = true) ∧
    (∃ (s : State) (w : FetchWord) (rest : List FetchWord) (e : DecodeError), s.prog = w :: rest ∧ decode w = .error e ∧ w.fmt.onWire = false) := ⟨⟨{ base 2 with prog := [encode .scriptStepI] }, _, _, .scriptStepI, rfl, rfl, rfl⟩,
   ⟨{ base 2 with prog := [encode (.scriptParam .n 0)] }, _, _, .scriptParam .n 0, rfl, rfl, rfl⟩,
   ⟨{ base 2 with prog := [⟨.wirePair, .initiator, [0x7E#8, 0x7E#8]⟩] }, _, _, .notAnEscapePair, rfl, by rfl, rfl⟩,
   ⟨{ base 2 with prog := [⟨.enumRState, .initiator, [4#8]⟩] }, _, _, .unusedValue, rfl, rfl, rfl⟩⟩

theorem witness_FreeRunAlternatesTheStations : ∀ st : Station, ∃ s : State, s.prog = [] ∧ s.turn = st := fun st => ⟨{ base 2 with turn := st }, rfl, rfl⟩

theorem witness_SpecEncodingsDecode : (0x7E#8 : Byte) ≠ 0x7D#8 ∧ 8 ≤ (8#8 : Byte).toNat ∧ 5 ≤ (5#8 : Byte).toNat ∧ 4 ≤ (4#8 : Byte).toNat := by decide

theorem witness_DecodeOfEncodeIsTheInstruction : (Instr.frame .responder 0x7D#8 0x7E#8 [0x7E#8]).wellFormed = true ∧
    (Instr.scriptExpect (.neg (.lt ⟨.rxPayload, .responder, 2 ^ 64 - 1⟩ (2 ^ 64 - 1)))).wellFormed = true := by decide

theorem witness_CrcDetectsOneChangedByte : (0x00#8 : Byte) ≠ 0x01#8 := by decide

theorem witness_QueueTestsAnswer : (∃ s : State, (s.queue .qa).length ≤ s.capacity .qa ∧ s.queue .qa = []) ∧
    (∃ s : State, (s.queue .qb).length = s.capacity .qb) := ⟨⟨base 2, by decide, rfl⟩, ⟨{ base 2 with qb := List.replicate 8 0#8 }, by decide⟩⟩

theorem witness_QueueOperationsFromOutside : (∃ s : State, (s.queue .qa).length + 1 = s.capacity .qa) ∧ (∃ s : State, s.capacity .qa < (s.queue .qa).length + 1) ∧
    (∃ (s : State) (bs : List Byte), bs ≠ [] ∧ (s.queue .qb).length + bs.length = s.capacity .qb) ∧
    (∃ (s : State) (bs : List Byte), s.capacity .qb < (s.queue .qb).length + bs.length) ∧
    (∃ (s : State) (b : Byte) (rest : List Byte), s.queue .qa = b :: rest) ∧ (∃ s : State, s.queue .qa = []) := ⟨⟨{ base 2 with qa := List.replicate 7 0#8 }, by decide⟩, ⟨{ base 2 with qa := List.replicate 8 0#8 }, by decide⟩,
   ⟨base 2, List.replicate 8 0#8, by decide, by decide⟩, ⟨base 2, List.replicate 9 0#8, by decide⟩,
   ⟨{ base 2 with qa := [0#8] }, 0#8, [], rfl⟩, ⟨base 2, rfl⟩⟩

theorem witness_CommandProcessorAnswers : (0x03#8 : Byte) ≠ 0x01#8 ∧ (0x03#8 : Byte) ≠ 0x02#8 ∧ (0 : Nat) < [0x33#8].length := by decide

theorem witness_EnvironmentLinesSetInputsAndClock : ∃ (s : State) (p : List Byte), p.length = s.par.n := ⟨base 2, [0#8, 0#8], rfl⟩

theorem witness_ParamLineFixesAParameter : (∃ s : State, 1 ≤ s.par.n) ∧ (∃ s : State, 1 ≤ 1 ∧ (1 : Nat) ≠ s.par.n) ∧
    (∃ s : State, 1 ≤ 1 ∧ s.qa.length ≤ 1 ∧ s.qb.length = 1) ∧ (∃ s : State, 1 < s.qa.length) := ⟨⟨base 2, by decide⟩, ⟨base 2, by decide, by decide⟩, ⟨{ base 2 with qb := [0#8] }, by decide, by decide, rfl⟩,
   ⟨{ base 2 with qa := [0#8, 0#8] }, by decide⟩⟩

theorem witness_ParamLineFixesAParameter_order : (∃ (s : State) (v : Nat), s.qa.length = v ∧ s.qb.length ≤ v ∧ v ≠ 0) ∧ (∃ (s : State) (t : Nat), t + 1 = 2 ^ s.par.clockW) ∧
    ParamName.n ≠ .c := ⟨⟨{ base 2 with qa := [0#8] }, 1, rfl, by decide, by decide⟩, ⟨base 2, 2 ^ 32 - 1, by decide⟩, by decide⟩

theorem witness_LoopRepeatsItsLines : (∃ (s : State) (body rest : List FetchWord), body ≠ [] ∧ rest ≠ [] ∧ s.prog = body ++ rest) ∧
    (∃ (s : State) (lines : Nat), s.prog.length < lines) := ⟨⟨{ base 2 with prog := [encode .scriptStepI, encode .scriptStepR] }, [encode .scriptStepI], [encode .scriptStepR], by decide,
     by decide, rfl⟩, ⟨base 2, 1, by decide⟩⟩

theorem witness_ByteAfterEscapeIsUnescaped : ∀ b : Byte, ∃ s : State, (s.rx .responder).assembled = false ∧ (s.rx .responder).unescPending = true ∧
    s.queue (Station.inQueue .responder) = b :: [0#8] := fun b => ⟨hearing (receiving true false true 2) [b, 0#8], rfl, rfl, rfl⟩

theorem witness_EscapeAndDataBytes : ∀ b : Byte, ∃ s : State, (s.rx .responder).assembled = false ∧ (s.rx .responder).unescPending = false ∧
    s.queue (Station.inQueue .responder) = b :: [] := fun b => ⟨hearing (receiving true false false 2) [b], rfl, rfl, rfl⟩

theorem witness_FlagOpensAndCloses : ∀ opened : Bool, ∃ s : State, (s.rx .responder).assembled = false ∧ (s.rx .responder).unescPending = false ∧
    (s.rx .responder).started = opened ∧ s.queue (Station.inQueue .responder) = 0x7E#8 :: [] := fun opened => ⟨hearing (receiving opened false false 6) [0x7E#8], rfl, rfl, rfl, rfl⟩

theorem witness_NothingToDecode : (∃ s : State, (s.rx .responder).assembled = true) ∧
    (∃ s : State, (s.rx .responder).assembled = false ∧ s.queue (Station.inQueue .responder) = []) := ⟨⟨hearing (receiving true true false 6) [], rfl⟩, ⟨base 2, rfl, rfl⟩⟩

theorem witness_RouteStoresByPosition : ∀ pos ∈ [0, 1, 2, 3, 4, 5, 6, 7], ∃ s : State, (s.rx .responder).pos = pos ∧ s.par.n = 2 := fun pos _ => ⟨hearing (receiving true false false pos) [], rfl, rfl⟩

theorem witness_FieldRowsRouteAtTheirPosition : ∀ pos ∈ [0, 1, 2, 3, 4, 5, 6, 7], ∃ s : State, (s.rx .responder).pos = pos ∧ s.par.n = 2 := fun pos _ => ⟨hearing (receiving true false false pos) [], rfl, rfl⟩

theorem witness_EscapePairIsOneDataByte : ∃ s : State, (s.rx .responder).assembled = false ∧ (s.rx .responder).unescPending = false := ⟨base 2, rfl, rfl⟩

theorem witness_ValidateFrameRequiresAllFive : (∃ s : State, (s.rx .responder).assembled = false) ∧
    (∃ s : State, (s.rx .responder).assembled = true ∧ (s.rx .responder).pos ≠ s.par.n + 4) ∧
    (∃ s : State, (s.rx .responder).assembled = true ∧ (s.rx .responder).pos = s.par.n + 4 ∧
      (s.rx .responder).packet.address ≠ 0x02#8) ∧
    (∃ s : State, (s.rx .responder).assembled = true ∧ (s.rx .responder).pos = s.par.n + 4 ∧
      (s.rx .responder).packet.address = 0x02#8 ∧ (s.rx .responder).packet.control = 0x03#8) ∧
    (∃ s : State, (s.rx .responder).assembled = true ∧ (s.rx .responder).pos = s.par.n + 4 ∧
      (s.rx .responder).packet.address = 0x02#8 ∧ (s.rx .responder).packet.control = 0x01#8 ∧
      (s.rx .responder).fcsFirst ≠ fcsFirst (crc16 [0x02#8, 0x01#8, 0x7E#8, 0x11#8])) ∧
    (∀ v : Bool, ∃ s : State, (s.rx .responder).assembled = true ∧ (s.rx .responder).pos = s.par.n + 4 ∧
      (s.rx .responder).packet = packet12 ∧ (s.rx .responder).fcsFirst = fcsFirst (crc16 [0x02#8, 0x01#8, 0x7E#8, 0x11#8]) ∧
      (s.rx .responder).fcsSecond = fcsSecond (crc16 [0x02#8, 0x01#8, 0x7E#8, 0x11#8]) ∧ (s.rx .responder).valid = v) := ⟨⟨base 2, rfl⟩, ⟨hearing { closed12 with pos := 7 } [], rfl, by decide⟩,
   ⟨hearing { closed12 with packet := { packet12 with address := 0x01#8 } } [], rfl, rfl, by decide⟩,
   ⟨hearing { closed12 with packet := { packet12 with control := 0x03#8 } } [], rfl, rfl, rfl, rfl⟩,
   ⟨hearing { closed12 with fcsFirst := 0x20#8 } [], rfl, rfl, rfl, rfl, by decide +kernel⟩,
   fun v => ⟨hearing { closed12 with valid := v } [], rfl, rfl, rfl,
     by show 0x21#8 = _; decide +kernel, by show 0x88#8 = _; decide +kernel, rfl⟩⟩

theorem witness_DecodeOfEncodedFrameIsThePayload : ∃ (s : State) (p : List Byte), 1 ≤ s.par.n ∧ p.length = s.par.n ∧ s.rx .responder = rxInit s.par.n := ⟨base 2, [0x7E#8, 0x7D#8], by decide, rfl, rfl⟩

theorem witness_FrameIsValidExactlyWhenAcceptable : ∃ s : State, 1 ≤ s.par.n ∧ s.rx .responder = rxInit s.par.n := ⟨base 1, by decide, rfl⟩

theorem witness_FramesTouchOnlyTheirReceiver : ∃ (s : State) (reply : List Byte),
    exec (.cmdProcess s.res.link.result.control s.res.link.result.payload) s = .next (s.report (.bytes reply) none) := ⟨base 2, _, rfl⟩

theorem witness_EncodeStepNoOps : (∃ s : State, (s.tx .initiator).stage = .done) ∧
    (∃ s : State, (s.tx .initiator).stage ≠ .done ∧
      s.capacity (Station.outQueue .initiator) ≤ (s.queue (Station.outQueue .initiator)).length) := ⟨⟨sending .done 2 false 0#8 [], rfl⟩, ⟨sending .control 0 false 0#8 (List.replicate 8 0#8), by decide, by decide⟩⟩

theorem witness_FlagsAreSentLiterally : ∀ stage ∈ [Stage.startFlag, .endFlag], ∃ s : State, (s.tx .initiator).stage = stage ∧
    (s.queue (Station.outQueue .initiator)).length < s.capacity (Station.outQueue .initiator) ∧
    (s.tx .initiator).escPending = false := fun stage _ => ⟨sending stage 2 false 0#8 [], rfl, by show 0 < 8; decide, rfl⟩

theorem witness_EscapeSecondHalfIsSent : ∃ s : State, (s.tx .initiator).stage ≠ .done ∧
    (s.queue (Station.outQueue .initiator)).length < s.capacity (Station.outQueue .initiator) ∧
    (s.tx .initiator).escPending = true := ⟨sending .payload 0 true 0x7E#8 [], by decide, by decide, rfl⟩

theorem witness_StuffableStagesSendTheirByte : (∀ stage ∈ [Stage.address, .control, .payload, .fcsHigh, .fcsLow], ∃ s : State, (s.tx .initiator).stage = stage ∧
      (s.queue (Station.outQueue .initiator)).length < s.capacity (Station.outQueue .initiator) ∧
      (s.tx .initiator).escPending = false ∧ (s.txPacket .initiator).payload[(s.tx .initiator).cursor]? = some 0x11#8) ∧
    (∃ s : State, (s.tx .initiator).stage = .payload ∧ (s.tx .initiator).escPending = false ∧
      (s.queue (Station.outQueue .initiator)).length < s.capacity (Station.outQueue .initiator) ∧
      (s.txPacket .initiator).payload.length ≤ (s.tx .initiator).cursor) := ⟨fun stage _ => ⟨sending stage 1 false 0#8 [], rfl, by show 0 < 8; decide, rfl, rfl⟩,
   ⟨sending .payload 2 false 0#8 [], rfl, rfl, by decide, by decide⟩⟩

theorem witness_AdvanceMovesToTheNextByte : ∀ stage : Stage, ∀ cursor ∈ [0, 1], ∃ s : State, (s.tx .initiator).stage = stage ∧ (s.tx .initiator).cursor = cursor ∧
    s.par.n = 2 := fun stage cursor _ => ⟨sending stage cursor false 0#8 [], rfl, rfl, rfl⟩

/-- A fresh transmission of the packet of V-TX-12, with room for its nine wire bytes. -/
def fresh12 : State :=
  let s := iAt .transmit ((base 2).setTxPacket .initiator packet12)
  { s.setTx .initiator (txInit (crc16 ([packet12.address, packet12.control] ++ packet12.payload))) with
    par := { n := 2, capQA := 9, capQB := 8, replyTimeoutMs := 1000, clockW := 32 }
    prog := List.replicate (frameBytes packet12.address packet12.control packet12.payload).length (encode .scriptStepI) }

theorem witness_WholeFrameIsTransmitted : fresh12.ini.state = .transmit ∧ 1 ≤ fresh12.par.n ∧
    fresh12.ini.link.txPacket.payload.length = fresh12.par.n ∧
    fresh12.ini.link.tx =
      txInit (crc16 ([fresh12.ini.link.txPacket.address, fresh12.ini.link.txPacket.control] ++
        fresh12.ini.link.txPacket.payload)) ∧
    fresh12.qa.length + (frameBytes packet12.address packet12.control packet12.payload).length ≤ fresh12.par.capQA ∧
    fresh12.prog =
      List.replicate (frameBytes packet12.address packet12.control packet12.payload).length (encode .scriptStepI) := by decide +kernel

theorem witness_PrepareBuildsTheRequest : ∃ s : State, s.ini.state = .prepare := ⟨base 2, rfl⟩

theorem witness_TransmitArmsTheDeadlineWhenDone : (∃ s e : State, s.ini.state = .transmit ∧
      (s.ini.link.tx.stage = .payload → s.ini.link.tx.cursor < s.ini.link.txPacket.payload.length) ∧
      encodeStep .initiator s = .next e ∧ e.ini.link.tx.stage ≠ .done) ∧
    (∃ s e : State, s.ini.state = .transmit ∧
      (s.ini.link.tx.stage = .payload → s.ini.link.tx.cursor < s.ini.link.txPacket.payload.length) ∧
      encodeStep .initiator s = .next e ∧ e.ini.link.tx.stage = .done) := ⟨⟨iAt .transmit (sending .payload 1 false 0#8 []), _, rfl, by decide, rfl, by decide⟩,
   ⟨iAt .transmit (sending .endFlag 2 false 0#8 []), _, rfl, by decide, rfl, rfl⟩⟩

theorem witness_AwaitReplyStartsOrTimesOut : (∃ s : State, s.ini.state = .awaitReply ∧ (decodeStep .initiator s).ini.link.rx.started = true ∧
      (decodeStep .initiator s).ini.link.rx.assembled = false) ∧
    (∃ s : State, s.ini.state = .awaitReply ∧ (decodeStep .initiator s).ini.link.rx.started = false ∧
      (s.ini.deadline.duration : Int) ≤ ((s.clock : Int) - (s.ini.deadline.tStart : Int)) % (2 : Int) ^ s.par.clockW) ∧
    (∃ s : State, s.ini.state = .awaitReply ∧ (decodeStep .initiator s).ini.link.rx.started = false ∧
      ¬(s.ini.deadline.duration : Int) ≤ ((s.clock : Int) - (s.ini.deadline.tStart : Int)) % (2 : Int) ^ s.par.clockW) := ⟨⟨awaiting 5000 [0x7E#8], rfl, rfl, rfl⟩, ⟨awaiting 1022 [], rfl, rfl, by decide⟩, ⟨awaiting 1021 [], rfl, rfl, by decide⟩⟩

/-- A station's context one closing flag before the end of the valid frame it expects. -/
def lastFlag (st : Station) (fcs : Byte) : RxContext :=
  match st with
  | .initiator =>
    { closed12 with assembled := false, packet := { address := 0x01#8, control := 0x01#8, payload := [0x81#8, 0xEE#8] },
                    fcsFirst := fcs, fcsSecond := 0x0E#8 }
  | .responder => { closed12 with assembled := false, fcsFirst := fcs }

theorem witness_InitiatorReceiveWaitsForTheFrame : (∃ s : State, s.ini.state = .receive ∧ (decodeStep .initiator s).ini.link.rx.assembled = false) ∧
    (∃ s : State, s.ini.state = .receive ∧ (decodeStep .initiator s).ini.link.rx.assembled = true ∧
      (decodeStep .initiator s).ini.link.rx.valid = true) ∧
    (∃ s : State, s.ini.state = .receive ∧ (decodeStep .initiator s).ini.link.rx.assembled = true ∧
      (decodeStep .initiator s).ini.link.rx.valid = false) := ⟨⟨iAt .receive (base 2), rfl, rfl⟩,
   ⟨{ iAt .receive ((base 2).setRx .initiator (lastFlag .initiator 0xF2#8)) with qb := [0x7E#8] }, rfl, by decide +kernel,
     by decide +kernel⟩,
   ⟨{ iAt .receive ((base 2).setRx .initiator (lastFlag .initiator 0xF3#8)) with qb := [0x7E#8] }, rfl, by decide +kernel,
     by decide +kernel⟩⟩

theorem witness_InitiatorProcessEmitsTheResult : ∃ s : State, s.ini.state = .process := ⟨iAt .process (base 2), rfl⟩

theorem witness_ResultReadyOnlyFromProcess : (∃ s t : State, exec .initiatorProcess s = .next t ∧ t.host.ready ≠ s.host.ready) ∧
    (∃ s t : State, exec .scriptStepR s = .next t ∧ t.host.ready = s.host.ready) := ⟨⟨iAt .process (base 2), _, rfl, by decide⟩, ⟨base 2, _, rfl, rfl⟩⟩

theorem witness_InitiatorTransitions : (∃ s t : State, s.ini.state = .prepare ∧ exec .scriptStepI s = .next t) ∧
    (∀ stage ∈ [Stage.endFlag, .control], ∃ s t : State, s.ini.state = .transmit ∧ exec .scriptStepI s = .next t ∧
      (t.ini.link.tx.stage = .done ↔ stage = .endFlag)) ∧
    (∃ s t : State, s.ini.state = .awaitReply ∧ exec .scriptStepI s = .next t ∧
      (decodeStep .initiator s).ini.link.rx.started = true ∧ (decodeStep .initiator s).ini.link.rx.assembled = false) ∧
    (∀ now ∈ [1021, 1022], ∃ s t : State, s.ini.state = .awaitReply ∧ exec .scriptStepI s = .next t ∧
      (decodeStep .initiator s).ini.link.rx.started = false ∧ isExpired s s.ini.deadline = (now == 1022)) ∧
    (∃ s t : State, s.ini.state = .receive ∧ exec .scriptStepI s = .next t ∧
      (decodeStep .initiator s).ini.link.rx.assembled = false) ∧
    (∀ fcs ∈ [(0xF2#8 : Byte), 0xF3#8], ∃ s t : State, s.ini.state = .receive ∧ exec .scriptStepI s = .next t ∧
      (decodeStep .initiator s).ini.link.rx.assembled = true ∧
      (decodeStep .initiator s).ini.link.rx.valid = (fcs == 0xF2#8)) ∧
    (∃ s t : State, s.ini.state = .process ∧ exec .scriptStepI s = .next t) :=
  ⟨⟨base 2, _, rfl, rfl⟩, by
     intro stage h
     simp only [List.mem_cons, List.not_mem_nil, or_false] at h
     rcases h with rfl | rfl
     · exact ⟨iAt .transmit (sending .endFlag 2 false 0#8 []), _, rfl, rfl, by decide⟩
     · exact ⟨iAt .transmit (sending .control 0 false 0#8 []), _, rfl, rfl, by decide⟩,
   ⟨awaiting 1022 [0x7E#8], _, rfl, rfl, rfl, rfl⟩, by
     intro now h
     simp only [List.mem_cons, List.not_mem_nil, or_false] at h
     rcases h with rfl | rfl
     · exact ⟨awaiting 1021 [], _, rfl, rfl, rfl, by decide⟩
     · exact ⟨awaiting 1022 [], _, rfl, rfl, rfl, by decide⟩,
   ⟨iAt .receive (base 2), _, rfl, rfl, rfl⟩, by
     intro fcs h
     refine ⟨{ iAt .receive ((base 2).setRx .initiator (lastFlag .initiator fcs)) with qb := [0x7E#8] }, _, rfl, rfl, ?_⟩
     simp only [List.mem_cons, List.not_mem_nil, or_false] at h
     rcases h with rfl | rfl <;> exact ⟨by decide +kernel, by decide +kernel⟩,
   ⟨iAt .process (base 2), _, rfl, rfl⟩⟩

theorem witness_ResponderReceivesACommand : (∀ b ∈ [(0x7E#8 : Byte), 0x55#8], ∃ s : State, s.res.state = .waitCommand ∧
      (decodeStep .responder s).res.link.rx.started = (b == 0x7E#8)) ∧
    (∃ s : State, s.res.state = .receive ∧ (decodeStep .responder s).res.link.rx.assembled = false) ∧
    (∃ s : State, s.res.state = .receive ∧ (decodeStep .responder s).res.link.rx.assembled = true ∧
      (decodeStep .responder s).res.link.rx.valid = true) ∧
    (∃ s : State, s.res.state = .receive ∧ (decodeStep .responder s).res.link.rx.assembled = true ∧
      (decodeStep .responder s).res.link.rx.valid = false) := ⟨by
     intro b hb
     refine ⟨{ base 2 with qa := [b] }, rfl, ?_⟩
     simp only [List.mem_cons, List.not_mem_nil, or_false] at hb
     rcases hb with rfl | rfl <;> decide,
   ⟨rAt .receive (base 2), rfl, rfl⟩,
   ⟨rAt .receive (hearing (lastFlag .responder 0x21#8) [0x7E#8]), rfl, by decide +kernel, by decide +kernel⟩,
   ⟨rAt .receive (hearing (lastFlag .responder 0x20#8) [0x7E#8]), rfl, by decide +kernel, by decide +kernel⟩⟩

theorem witness_ResponderProcessBuildsTheReply : ∀ c ∈ [(0x01#8 : Byte), 0x02#8], ∃ s : State, s.res.state = .process ∧ s.res.link.result.control = c := fun c _ => ⟨rAt .process ((base 2).setResult .responder ⟨c, [0#8, 1#8]⟩), rfl, rfl⟩

theorem witness_ReplyPollsThenSends : (∃ s : State, s.res.state = .reply ∧ s.qa ≠ [] ∧ (decodeStep .responder s).res.link.rx.started = false) ∧
    (∃ s : State, s.res.state = .reply ∧ s.qa ≠ [] ∧ (decodeStep .responder s).res.link.rx.started = true) ∧
    (∀ stage ∈ [Stage.control, .endFlag], ∃ s : State, s.res.state = .reply ∧ s.qa = [] ∧ s.res.link.tx.stage = stage ∧
      (s.res.link.tx.stage = .payload → s.res.link.tx.cursor < s.res.link.txPacket.payload.length)) := ⟨⟨replying .control [0x55#8] [], rfl, by decide, rfl⟩, ⟨replying .control [0x7E#8] [], rfl, by decide, rfl⟩,
   fun stage _ => ⟨replying stage [] [], rfl, rfl, rfl, fun _ => by show 0 < 2; decide⟩⟩

theorem witness_ResponderTransitions : (∀ b ∈ [(0x7E#8 : Byte), 0x55#8], ∃ s t : State, s.res.state = .waitCommand ∧
      exec .scriptStepR s = .next t ∧ (decodeStep .responder s).res.link.rx.started = (b == 0x7E#8)) ∧
    (∃ s t : State, s.res.state = .receive ∧ exec .scriptStepR s = .next t ∧
      (decodeStep .responder s).res.link.rx.assembled = false) ∧
    (∀ fcs ∈ [(0x21#8 : Byte), 0x20#8], ∃ s t : State, s.res.state = .receive ∧ exec .scriptStepR s = .next t ∧
      (decodeStep .responder s).res.link.rx.assembled = true ∧
      (decodeStep .responder s).res.link.rx.valid = (fcs == 0x21#8)) ∧
    (∃ s t : State, s.res.state = .process ∧ exec .scriptStepR s = .next t) ∧
    (∀ b ∈ [(0x7E#8 : Byte), 0x55#8], ∃ s t : State, s.res.state = .reply ∧ s.qa ≠ [] ∧
      exec .scriptStepR s = .next t ∧ (decodeStep .responder s).res.link.rx.started = (b == 0x7E#8)) ∧
    (∀ stage ∈ [Stage.endFlag, .control], ∃ s t : State, s.res.state = .reply ∧ s.qa = [] ∧
      exec .scriptStepR s = .next t ∧ (t.res.link.tx.stage = .done ↔ stage = .endFlag)) :=
  ⟨by
     intro b h
     refine ⟨{ base 2 with qa := [b] }, _, rfl, rfl, ?_⟩
     simp only [List.mem_cons, List.not_mem_nil, or_false] at h
     rcases h with rfl | rfl <;> decide,
   ⟨rAt .receive (base 2), _, rfl, rfl, rfl⟩, by
     intro fcs h
     refine ⟨rAt .receive (hearing (lastFlag .responder fcs) [0x7E#8]), _, rfl, rfl, ?_⟩
     simp only [List.mem_cons, List.not_mem_nil, or_false] at h
     rcases h with rfl | rfl <;> exact ⟨by decide +kernel, by decide +kernel⟩,
   ⟨rAt .process (base 2), _, rfl, rfl⟩, by
     intro b h
     simp only [List.mem_cons, List.not_mem_nil, or_false] at h
     rcases h with rfl | rfl
     · exact ⟨replying .control [0x7E#8] [], _, rfl, by decide, rfl, by decide⟩
     · exact ⟨replying .control [0x55#8] [], _, rfl, by decide, rfl, by decide⟩, by
     intro stage h
     simp only [List.mem_cons, List.not_mem_nil, or_false] at h
     rcases h with rfl | rfl
     · exact ⟨replying .endFlag [] [], _, rfl, rfl, rfl, by decide⟩
     · exact ⟨replying .control [] [], _, rfl, rfl, rfl, by decide⟩⟩

theorem witness_ActivationRunsTheSelectedRow :
    (∃ s : State, ¬(s.ini.state = .awaitReply ∧ ¬((decodeStep .initiator s).ini.link.rx.started = true ∧
        (decodeStep .initiator s).ini.link.rx.assembled = false) ∧ isExpired s s.ini.deadline = false)) ∧
    (∃ s t : State, exec .scriptStepI s = .next t) ∧ (∃ s t : State, exec .scriptStepR s = .next t) ∧
    (∃ s : State, exec .scriptStepI s = .fault .payloadIndex) :=
  ⟨⟨base 2, by simp [base, Initiator.reset]⟩, ⟨base 2, _, rfl⟩, ⟨base 2, _, rfl⟩,
   ⟨iAt .transmit (sending .payload 2 false 0#8 []), rfl⟩⟩

theorem witness_ExactlyOneCodecArm : (∃ s e : State, encodeStep .initiator s = .next e) ∧
    (∃ s : State, encodeStep .initiator s = .fault .payloadIndex) :=
  ⟨⟨base 2, _, rfl⟩, ⟨sending .payload 2 false 0#8 [], rfl⟩⟩

theorem witness_ActivationMovesAtMostOneByte : (∃ s t : State, exec .scriptStepI s = .next t ∧ t.qa = s.qa ++ [0x02#8]) ∧
    (∃ s t : State, exec .scriptStepR s = .next t ∧ s.qa = 0x55#8 :: t.qa) := ⟨⟨iAt .transmit (sending .address 0 false 0#8 [0x7E#8]), _, rfl, rfl⟩, ⟨replying .control [0x55#8] [], _, rfl, rfl⟩⟩

theorem witness_ConfigurationIsSampledInPrepareOnly : (∃ s t : State, s.ini.state ≠ .prepare ∧ exec .scriptStepI s = .next t) ∧ (∃ s t : State, exec .scriptStepR s = .next t) := ⟨⟨awaiting 1021 [], _, by decide, rfl⟩, ⟨base 2, _, rfl⟩⟩

theorem witness_OnlyExpectReadsTheHostPort : (∃ (s t : State) (h : HostPort) (p : Pred), exec (.scriptExpect p) s = .next t ∧ h ≠ s.host ∧ h.ready = s.host.ready) ∧
    (∃ (i : Instr) (s t : State) (h : HostPort), exec i s = .next t ∧ (∀ p : Pred, i ≠ .scriptExpect p) ∧ h.ready ≠ s.host.ready) := ⟨⟨iAt .process (base 2), _, ⟨.bool true, none, []⟩, .eq ⟨.readyCount, .initiator, 0⟩ 1, rfl, by decide, rfl⟩,
   ⟨.initiatorProcess, iAt .process (base 2), _, ⟨.nothing, none, [⟨0x01#8, [0x11#8]⟩]⟩, rfl, by simp, by decide⟩⟩

theorem witness_WireBytesNeverTrap_decoded : ∀ fmt ∈ [Format.wireByte, .afterEscape, .wirePair, .frame], ∃ (s : State) (w : FetchWord) (rest : List FetchWord) (i : Instr), s.prog = w :: rest ∧ decode w = .ok i ∧ w.fmt = fmt := by
  intro fmt h
  simp only [List.mem_cons, List.not_mem_nil, or_false] at h
  rcases h with rfl | rfl | rfl | rfl
  · exact ⟨{ base 2 with prog := [encode (.flag .initiator)] }, _, _, .flag .initiator, rfl, rfl, rfl⟩
  · exact ⟨{ base 2 with prog := [encode (.escaped .initiator 0x7E#8)] }, _, _, .escaped .initiator 0x7E#8, rfl, rfl, rfl⟩
  · exact ⟨{ base 2 with prog := [encode (.escFlag .initiator)] }, _, _, .escFlag .initiator, rfl, rfl, rfl⟩
  · exact ⟨{ base 2 with prog := [encode (.frame .responder 0x02#8 0x01#8 [0x7E#8, 0x11#8])] }, _, _,
      .frame .responder 0x02#8 0x01#8 [0x7E#8, 0x11#8], rfl, by decide +kernel, rfl⟩

theorem witness_WireBytesNeverTrap : ∃ (s : State) (w : FetchWord) (rest : List FetchWord) (e : DecodeError), s.prog = w :: rest ∧ decode w = .error e ∧
    w.fmt ∈ [Format.wireByte, .afterEscape, .wirePair, .frame] := ⟨{ base 2 with prog := [⟨.wirePair, .initiator, [0x7E#8, 0x7E#8]⟩] }, _, _, .notAnEscapePair, rfl, by rfl, by decide⟩

theorem witness_WireBytesNeverTrap_checkBytes : ∃ (s : State) (p : List Byte) (rest : List FetchWord), s.rx .responder = rxInit s.par.n ∧
    [0x20#8, 0x88#8] ≠ [fcsFirst (packetCrc 0x02#8 0x01#8 p), fcsSecond (packetCrc 0x02#8 0x01#8 p)] ∧
    s.prog = ⟨.frame, .responder, 0x7E#8 :: (stuff (0x02#8 :: 0x01#8 :: (p ++ [0x20#8, 0x88#8])) ++ [0x7E#8])⟩ :: rest ∧
    0x02#8 = Station.address .responder ∧ p.length = s.par.n := ⟨{ base 2 with prog :=
      [⟨.frame, .responder, [0x7E#8, 0x02#8, 0x01#8, 0x7D#8, 0x5E#8, 0x11#8, 0x20#8, 0x88#8, 0x7E#8]⟩] }, [0x7E#8, 0x11#8], [], rfl, by decide +kernel, by decide, rfl, rfl⟩

/-- The system of two payload bytes right after reset is good. -/
theorem base_good : Good (base 2) := by
  simp [Good, Sized, Memory.wf, Link.Sized, TxContext.Ok, RxContext.Ok, Initiator.Ok, Responder.Ok, base, zeros,
    Initiator.reset, Responder.reset, Link.reset, zeroPacket, zeroResult, rxInit, txDefault, txInit, Stage.number]

theorem witness_StationsNeverStop : ∃ s : State, Good s ∧ s.prog = [] := ⟨base 2, base_good, rfl⟩

theorem witness_StepKeepsTheStateSized : ∃ s t : State, Sized s ∧ step s = .next t := ⟨{ base 2 with prog := [encode .scriptStepI] }, _, base_good.1, rfl⟩

theorem witness_StepKeepsTheInvariants : ∃ s t : State, Good s ∧ OnlyScriptLines s ∧ step s = .next t := ⟨{ base 2 with prog := [encode .scriptStepI] }, _, base_good, by unfold OnlyScriptLines; decide, rfl⟩

end Sys2Proof.Tests
end

section
/-! PROOFS. The start-up acts (R118, R295): what a PARAM line does, said once as an update of the state and the condition under
which the line is accepted, and which acts commute with it. -/

namespace Sys2Proof.Machine

/-! ## The line PARAM -/

/-- A value of a parameter fits the queues: a capacity is no less than what a queue holds (U15, log 4). -/
def FitsQueues (name : ParamName) (v : Nat) (s : State) : Prop := name = .c → s.qa.length ≤ v ∧ s.qb.length ≤ v

/-- A PARAM line is accepted: the value is one the parameter can have (U13), and it fits the queues. -/
def AcceptsParam (name : ParamName) (v : Nat) (s : State) : Prop := name.allows v = true ∧ FitsQueues name v s

/-- What an accepted PARAM line makes of the state, register by register (log 4). -/
def setParam (name : ParamName) (v : Nat) (s : State) : State :=
  match name with
  | .n =>
    { s with
      ini := if v = s.par.n then s.ini else Initiator.reset v
      res := if v = s.par.n then s.res else Responder.reset v
      par := { s.par with n := v } }
  | .c => { s with par := { s.par with capQA := v, capQB := v } }
  | .replyTimeoutMs => { s with par := { s.par with replyTimeoutMs := v } }
  | .clockW => setClockWidth v s

theorem setParam_n_same (s : State) : setParam .n s.par.n s = s := by simp [setParam]

theorem setParam_n_of_ne (v : Nat) (s : State) (h : v ≠ s.par.n) : setParam .n v s = rebuild v s := by
  simp [setParam, rebuild, h]

theorem exec_scriptParam_of_accepts {name : ParamName} {v : Nat} {s : State} (h : AcceptsParam name v s) :
    exec (.scriptParam name v) s = .next (setParam name v s).quiet := by
  obtain ⟨hallows, hfits⟩ := h
  show execScriptParam name v s = _
  cases name with
  | n =>
    have hv : v ≠ 0 := Nat.one_le_iff_ne_zero.1 (of_decide_eq_true hallows)
    by_cases hn : v = s.par.n
    · subst hn
      simp [execScriptParam, hv, setParam_n_same]
    · simp [execScriptParam, hv, hn, setParam_n_of_ne v s hn]
  | c =>
    obtain ⟨ha, hb⟩ := hfits rfl
    have hv : v ≠ 0 := Nat.one_le_iff_ne_zero.1 (of_decide_eq_true hallows)
    simp [execScriptParam, setParam, hv, Nat.not_lt.2 ha, Nat.not_lt.2 hb]
  | replyTimeoutMs => rfl
  | clockW => rfl

theorem exec_scriptParam_of_not_accepts {name : ParamName} {v : Nat} {s : State} (h : ¬AcceptsParam name v s) :
    exec (.scriptParam name v) s = .refused .badParameter := by
  show execScriptParam name v s = _
  cases name with
  | n =>
    have hv : v = 0 := by simpa [AcceptsParam, FitsQueues, ParamName.allows] using h
    simp [execScriptParam, hv]
  | c =>
    have hv : v = 0 ∨ v < s.qa.length ∨ v < s.qb.length := by
      simp only [AcceptsParam, FitsQueues, ParamName.allows, decide_eq_true_eq, true_imp_iff] at h
      omega
    exact if_pos hv
  | replyTimeoutMs => simp [AcceptsParam, FitsQueues, ParamName.allows] at h
  | clockW => simp [AcceptsParam, FitsQueues, ParamName.allows] at h

@[simp] theorem setParam_qa (name : ParamName) (v : Nat) (s : State) : (setParam name v s).qa = s.qa := by cases name <;> rfl
@[simp] theorem setParam_qb (name : ParamName) (v : Nat) (s : State) : (setParam name v s).qb = s.qb := by cases name <;> rfl
@[simp] theorem setParam_quiet (name : ParamName) (v : Nat) (s : State) :
    setParam name v s.quiet = (setParam name v s).quiet := by cases name <;> rfl

@[simp] theorem acceptsParam_quiet (name : ParamName) (v : Nat) (s : State) :
    AcceptsParam name v s.quiet ↔ AcceptsParam name v s := Iff.rfl
@[simp] theorem acceptsParam_setParam (name name' : ParamName) (v v' : Nat) (s : State) :
    AcceptsParam name v (setParam name' v' s) ↔ AcceptsParam name v s := by simp [AcceptsParam, FitsQueues]

/-- Where a value fits the queues, it is accepted just as well once they hold less. -/
theorem acceptsParam_iff_of_shorter {name : ParamName} {v : Nat} {s t : State} (hfits : FitsQueues name v s)
    (hqa : t.qa.length ≤ s.qa.length) (hqb : t.qb.length ≤ s.qb.length) :
    AcceptsParam name v t ↔ AcceptsParam name v s := by
  have hfits' : FitsQueues name v t := fun hc => ⟨hqa.trans (hfits hc).1, hqb.trans (hfits hc).2⟩
  simp [AcceptsParam, hfits, hfits']

/-! ## Updates that commute -/

/-- `N` and `CLOCK_W` meet in the deadline, which a change of `N` resets to 0. -/
theorem setParam_n_clockW_comm (v w : Nat) (s : State) :
    setParam .n v (setParam .clockW w s) = setParam .clockW w (setParam .n v s) := by
  by_cases hn : v = s.par.n
  · simp [setParam, setClockWidth, hn]
  · simp [setParam, setClockWidth, hn, Initiator.reset]

/-- Lines for two parameters write registers apart, but for `N` and `CLOCK_W`. -/
theorem setParam_comm {name name' : ParamName} (v v' : Nat) (s : State) (h : name' ≠ name) :
    setParam name v (setParam name' v' s) = setParam name' v' (setParam name v s) :=
  match name, name', h with
  | .n, .n, h | .c, .c, h | .replyTimeoutMs, .replyTimeoutMs, h | .clockW, .clockW, h => absurd rfl h
  | .n, .clockW, _ => setParam_n_clockW_comm v v' s
  | .clockW, .n, _ => (setParam_n_clockW_comm v' v s).symm
  | .n, .c, _ | .n, .replyTimeoutMs, _ | .c, .n, _ | .c, .replyTimeoutMs, _ | .c, .clockW, _ | .replyTimeoutMs, .n, _
  | .replyTimeoutMs, .c, _ | .replyTimeoutMs, .clockW, _ | .clockW, .c, _ | .clockW, .replyTimeoutMs, _ => rfl

theorem setParam_blockReset (name : ParamName) (v : Nat) (s : State) :
    setParam name v (blockReset s) = blockReset (setParam name v s) := by
  cases name with
  | n =>
    by_cases hn : v = s.par.n
    · simp [setParam, blockReset, hn]
    · simp [setParam, blockReset, hn]
  | c => rfl
  | replyTimeoutMs => rfl
  | clockW => simp [setParam, setClockWidth, blockReset, Initiator.reset]

theorem setParam_setQueue (name : ParamName) (v : Nat) (s : State) (q : Queue) (bs : List Byte) :
    setParam name v (s.setQueue q bs) = (setParam name v s).setQueue q bs := by
  cases q <;> cases name <;> rfl

/-- A time that fits the clock before the line fits as well as its low-order bits do after it (R239). -/
theorem setParam_setClock (name : ParamName) (v t : Nat) (s : State) (ht : t < 2 ^ s.par.clockW) :
    setParam name v { s with clock := t % 2 ^ s.par.clockW } =
      { setParam name v s with clock := t % 2 ^ (setParam name v s).par.clockW } := by
  cases name with
  | n => rfl
  | c => rfl
  | replyTimeoutMs => rfl
  | clockW => simp [setParam, setClockWidth, Nat.mod_eq_of_lt ht]

/-! ## Acts that commute -/

/-- Two acts lead to the same outcome in either order. -/
def ActsCommute (a b : Instr) (s : State) : Prop := andThen (exec a s) (exec b) = andThen (exec b s) (exec a)

/-- The acts R295 lets come in any order, but for PARAM and CFG lines: a reset, the emptying of a queue, and a CLOCK line whose
value fits the clock. -/
def StartUpAct (s : State) (a : Instr) : Prop :=
  a = .reset ∨ a = .scriptReset ∨ (∃ q, a = .qReset q) ∨ ∃ t : Nat, t < 2 ^ s.par.clockW ∧ a = .scriptClock t

/-- A PARAM line commutes with an act that is always an update `g` of the state, where `g` does not move the line's acceptance and
commutes with what the line makes of the state. -/
theorem scriptParam_commutes_update {name : ParamName} {v : Nat} {a : Instr} {g : State → State} {s : State}
    (hexec : ∀ t, exec a t = .next (g t).quiet) (hquiet : ∀ t, g t.quiet = (g t).quiet)
    (haccepts : AcceptsParam name v (g s) ↔ AcceptsParam name v s) (hcomm : setParam name v (g s) = g (setParam name v s)) :
    ActsCommute (.scriptParam name v) a s := by
  unfold ActsCommute
  by_cases h : AcceptsParam name v s
  · have h' : AcceptsParam name v (g s).quiet := haccepts.2 h
    simp [exec_scriptParam_of_accepts h, andThen, hexec, exec_scriptParam_of_accepts h', hquiet, hcomm]
  · have h' : ¬AcceptsParam name v (g s).quiet := mt haccepts.1 h
    simp [exec_scriptParam_of_not_accepts h, andThen, hexec, exec_scriptParam_of_not_accepts h']

theorem scriptParam_commutes_scriptCfg (name : ParamName) (v : Nat) (cmd : Byte) (p : List Byte) (s : State) :
    ActsCommute (.scriptParam name v) (.scriptCfg cmd p) s :=
  scriptParam_commutes_update (g := fun t => { t with cfg := { command := cmd, payload := p } }) (fun _ => rfl) (fun _ => rfl)
    Iff.rfl (by cases name <;> rfl)

theorem scriptParam_commutes_startUpAct {name : ParamName} {v : Nat} {a : Instr} {s : State} (hfits : FitsQueues name v s)
    (ha : StartUpAct s a) : ActsCommute (.scriptParam name v) a s := by
  obtain rfl | rfl | ⟨q, rfl⟩ | ⟨t, ht, rfl⟩ := ha
  case inl =>
    exact scriptParam_commutes_update (g := blockReset) (fun _ => rfl) (fun _ => rfl) Iff.rfl (setParam_blockReset name v s)
  case inr.inl =>
    refine scriptParam_commutes_update (g := fun t => ((blockReset t).setQueue .qa []).setQueue .qb []) (fun _ => rfl)
      (fun _ => rfl) (acceptsParam_iff_of_shorter hfits (Nat.zero_le _) (Nat.zero_le _)) ?_
    simp only [setParam_setQueue, setParam_blockReset]
  case inr.inr.inl =>
    refine scriptParam_commutes_update (g := fun t => t.setQueue q []) (fun _ => rfl) (fun _ => by cases q <;> rfl)
      (acceptsParam_iff_of_shorter hfits ?_ ?_) (setParam_setQueue name v s q [])
    · cases q <;> simp [State.setQueue]
    · cases q <;> simp [State.setQueue]
  case inr.inr.inr =>
    exact scriptParam_commutes_update (g := fun s => { s with clock := t % 2 ^ s.par.clockW }) (fun _ => rfl) (fun _ => rfl)
      Iff.rfl (setParam_setClock name v t s ht)

/-- Lines for two parameters commute, refusals included: a PARAM line leaves the queues alone, so it does not move what the other
line's acceptance depends on. -/
theorem scriptParam_commutes_scriptParam {name name' : ParamName} (v v' : Nat) (s : State) (hne : name' ≠ name) :
    ActsCommute (.scriptParam name v) (.scriptParam name' v') s := by
  have hkeep : ∀ (m m' : ParamName) (w w' : Nat),
      AcceptsParam m w (setParam m' w' s).quiet ↔ AcceptsParam m w s := by simp
  unfold ActsCommute
  by_cases h : AcceptsParam name v s <;> by_cases h' : AcceptsParam name' v' s
  · simp [exec_scriptParam_of_accepts h, exec_scriptParam_of_accepts h', andThen,
      exec_scriptParam_of_accepts ((hkeep name' name v' v).2 h'), exec_scriptParam_of_accepts ((hkeep name name' v v').2 h),
      setParam_comm v v' s hne]
  · simp [exec_scriptParam_of_accepts h, exec_scriptParam_of_not_accepts h', andThen,
      exec_scriptParam_of_not_accepts (mt (hkeep name' name v' v).1 h')]
  · simp [exec_scriptParam_of_not_accepts h, exec_scriptParam_of_accepts h', andThen,
      exec_scriptParam_of_not_accepts (mt (hkeep name name' v v').1 h)]
  · simp [exec_scriptParam_of_not_accepts h, exec_scriptParam_of_not_accepts h', andThen]

/-- No start-up act reads the configuration inputs or writes them. -/
theorem scriptCfg_commutes_startUpAct {a : Instr} {s : State} (cmd : Byte) (p : List Byte) (ha : StartUpAct s a) :
    ActsCommute (.scriptCfg cmd p) a s := by
  obtain rfl | rfl | ⟨q, rfl⟩ | ⟨t, -, rfl⟩ := ha
  · rfl
  · rfl
  · cases q <;> rfl
  · rfl

/-- Settles O19: the values and refusals are those of `setParam` and `AcceptsParam`, and the order clause is one commutation lemma
for each kind of pair. -/
theorem paramLineFixesAParameter : Obligations.ParamLineFixesAParameter := by
  intro s
  refine ⟨rfl, rfl, ?_, ?_, ?_, ?_, ?_, ?_⟩
  · intro v hv
    refine ⟨_, exec_scriptParam_of_accepts ⟨decide_eq_true hv, fun hc => nomatch hc⟩, rfl, rfl, rfl, rfl, rfl, ?_, ?_⟩
    · rintro rfl
      simp [setParam_n_same]
    · intro hne
      simp [setParam_n_of_ne v s hne, rebuild]
  · intro v hv ha hb
    exact ⟨_, _, exec_scriptParam_of_accepts ⟨decide_eq_true hv, fun _ => ⟨ha, hb⟩⟩⟩
  · intro v hv
    refine exec_scriptParam_of_not_accepts fun ⟨_, hfits⟩ => ?_
    obtain ⟨ha, hb⟩ := hfits rfl
    omega
  · exact fun _ => ⟨_, _, rfl⟩
  · exact fun _ => ⟨_, rfl, rfl, rfl, rfl, rfl, rfl, rfl, rfl⟩
  · rintro act other startUp (⟨⟨cmd, p, rfl⟩, ha⟩ | ⟨name, v, rfl, hfits, ha | ⟨cmd, p, rfl⟩ | ⟨name', v', hne, rfl⟩⟩)
    · exact scriptCfg_commutes_startUpAct cmd p ha
    · exact scriptParam_commutes_startUpAct hfits ha
    · exact scriptParam_commutes_scriptCfg name v cmd p s
    · exact scriptParam_commutes_scriptParam v v' s hne

end Sys2Proof.Machine
end

section
/-! PROOFS. What the codec calls and the activations leave alone (R21, R68), and the byte an activation moves (R62, R69). -/

namespace Sys2Proof.Machine

/-! ## DecodeStep -/

@[simp] theorem decodeStep_par (st : Station) (s : State) : (decodeStep st s).par = s.par := by
  obtain ⟨bs, rx, result, label, hd, -⟩ := decodeStep_shape st s
  simp [hd]

@[simp] theorem decodeStep_tx (st st' : Station) (s : State) : (decodeStep st s).tx st' = s.tx st' := by
  obtain ⟨bs, rx, result, label, hd, -⟩ := decodeStep_shape st s
  simp [hd]

@[simp] theorem decodeStep_ini_tx (st : Station) (s : State) : (decodeStep st s).ini.link.tx = s.ini.link.tx :=
  decodeStep_tx st .initiator s

@[simp] theorem decodeStep_res_tx (st : Station) (s : State) : (decodeStep st s).res.link.tx = s.res.link.tx :=
  decodeStep_tx st .responder s

@[simp] theorem decodeStep_ini_state (st : Station) (s : State) : (decodeStep st s).ini.state = s.ini.state := by
  obtain ⟨bs, rx, result, label, hd, -⟩ := decodeStep_shape st s
  simp [hd]

@[simp] theorem decodeStep_ini_deadline (st : Station) (s : State) :
    (decodeStep st s).ini.deadline = s.ini.deadline := by
  obtain ⟨bs, rx, result, label, hd, -⟩ := decodeStep_shape st s
  simp [hd]

@[simp] theorem decodeStep_res_state (st : Station) (s : State) : (decodeStep st s).res.state = s.res.state := by
  obtain ⟨bs, rx, result, label, hd, -⟩ := decodeStep_shape st s
  simp [hd]

/-! ## The activations whose end depends on what the codec call finds -/

/-- Receive of the initiator: the frame is still open, or it is closed and valid, or it is closed and abandoned (R195). -/
theorem initiatorReceive_cases (s : State) :
    ((decodeStep .initiator s).ini.link.rx.assembled = false ∧ initiatorReceive s = decodeStep .initiator s) ∨
      ((decodeStep .initiator s).ini.link.rx.valid = true ∧
        initiatorReceive s = (decodeStep .initiator s).setIState .process) ∨
      initiatorReceive s = abandonFrame .initiator (decodeStep .initiator s) := by
  unfold initiatorReceive
  dsimp only
  split_ifs with ha hv
  · exact .inr (.inl ⟨hv, rfl⟩)
  · exact .inr (.inr rfl)
  · exact .inl ⟨Bool.eq_false_iff.2 ha, rfl⟩

/-- Receive of the responder, in the same three ways (R212). -/
theorem responderReceive_cases (s : State) :
    ((decodeStep .responder s).res.link.rx.assembled = false ∧ responderReceive s = decodeStep .responder s) ∨
      ((decodeStep .responder s).res.link.rx.valid = true ∧
        responderReceive s = (decodeStep .responder s).setRState .process) ∨
      responderReceive s = abandonFrame .responder (decodeStep .responder s) := by
  unfold responderReceive
  dsimp only
  split_ifs with ha hv
  · exact .inr (.inl ⟨hv, rfl⟩)
  · exact .inr (.inr rfl)
  · exact .inl ⟨Bool.eq_false_iff.2 ha, rfl⟩

/-- WaitCommand: no frame has been opened, or one has (R211). -/
theorem responderWaitCommand_cases (s : State) :
    ((decodeStep .responder s).res.link.rx.started = false ∧ responderWaitCommand s = decodeStep .responder s) ∨
      ((decodeStep .responder s).res.link.rx.started = true ∧
        responderWaitCommand s = (decodeStep .responder s).setRState .receive) := by
  unfold responderWaitCommand
  dsimp only
  split_ifs with ho
  · exact .inr ⟨ho, rfl⟩
  · exact .inl ⟨Bool.eq_false_iff.2 ho, rfl⟩

/-! ## The byte an activation moves -/

/-- From an outbound and an inbound queue to the queues after: one byte appended to the outbound queue where it had room, or
the oldest byte taken off the inbound one, or neither. -/
def MovesAtMostOneByte (cap : Nat) (out inb out' inb' : List Byte) : Prop :=
  (inb' = inb ∧ (out' = out ∨ (out.length < cap ∧ ∃ b, out' = out ++ [b]))) ∨ (out' = out ∧ ∃ b, inb = b :: inb')

theorem movesAtMostOneByte_refl (cap : Nat) (out inb : List Byte) : MovesAtMostOneByte cap out inb out inb :=
  .inl ⟨rfl, .inl rfl⟩

theorem movesAtMostOneByte_of_sent {cap : Nat} {out inb sent : List Byte}
    (h : sent = [] ∨ ∃ b, sent = [b] ∧ out.length < cap) : MovesAtMostOneByte cap out inb (out ++ sent) inb := by
  rcases h with rfl | ⟨b, rfl, hroom⟩
  · exact .inl ⟨rfl, .inl (List.append_nil out)⟩
  · exact .inl ⟨rfl, .inr ⟨hroom, b, rfl⟩⟩

theorem movesAtMostOneByte_of_read {cap : Nat} {out inb inb' : List Byte} (h : inb' = inb ∨ ∃ b, inb = b :: inb') :
    MovesAtMostOneByte cap out inb out inb' := by
  rcases h with rfl | hread
  · exact movesAtMostOneByte_refl ..
  · exact .inr ⟨rfl, hread⟩

/-! ## The initiator -/

/-- From `s` to `t` nothing but the initiator's record, the queues and the host's port differs, and at most one byte has
moved. -/
def InitiatorActs (s t : State) : Prop :=
  ∃ ini qa qb host, t = { s with ini := ini, qa := qa, qb := qb, host := host } ∧
    MovesAtMostOneByte s.par.capQA s.qa s.qb qa qb

theorem initiatorActs_refl (s : State) : InitiatorActs s s := ⟨_, _, _, _, rfl, movesAtMostOneByte_refl ..⟩

theorem initiatorActs_decodeStep (s : State) : InitiatorActs s (decodeStep .initiator s) := by
  obtain ⟨bs, rx, result, label, hd, hread⟩ := decodeStep_initiator s
  exact ⟨_, _, _, _, hd, movesAtMostOneByte_of_read hread⟩

theorem initiatorActs_encodeStep {s e : State} (h : encodeStep .initiator s = .next e) : InitiatorActs s e := by
  obtain ⟨sent, tx, label, he, hsent⟩ := encodeStep_initiator h
  exact ⟨_, _, _, _, he, movesAtMostOneByte_of_sent hsent⟩

theorem InitiatorActs.update {s u : State} (h : InitiatorActs s u) (ini : Initiator) (host : HostPort) :
    InitiatorActs s { u with ini := ini, host := host } := by
  obtain ⟨_, qa, qb, _, rfl, hmoves⟩ := h
  exact ⟨ini, qa, qb, host, rfl, hmoves⟩

theorem initiatorActs_receive (s : State) : InitiatorActs s (initiatorReceive s) := by
  have hd := initiatorActs_decodeStep s
  rcases initiatorReceive_cases s with ⟨-, hr⟩ | ⟨-, hr⟩ | hr <;> rw [hr]
  · exact hd
  · exact hd.update _ _
  · exact hd.update _ _

theorem initiatorActs_step {s t : State} (h : initiatorStep s = .next t) : InitiatorActs s t := by
  have hd := initiatorActs_decodeStep s
  rcases initiatorStep_cases h with ⟨-, rfl⟩ | ⟨e, -, he, ⟨-, rfl⟩ | ⟨-, rfl⟩⟩ | ⟨-, -, rfl⟩ | ⟨-, -, -, rfl⟩ |
    ⟨-, -, -, rfl⟩ | ⟨-, rfl⟩ | ⟨-, rfl⟩
  · exact (initiatorActs_refl s).update _ _
  · exact initiatorActs_encodeStep he
  · exact (initiatorActs_encodeStep he).update _ _
  · exact hd.update _ _
  · exact hd.update _ _
  · exact hd
  · exact initiatorActs_receive s
  · exact (initiatorActs_refl s).update _ _

/-! ## The responder -/

/-- From `s` to `t` nothing but the responder's record, the queues and the host's port differs, and at most one byte has
moved. -/
def ResponderActs (s t : State) : Prop :=
  ∃ res qa qb host, t = { s with res := res, qa := qa, qb := qb, host := host } ∧
    MovesAtMostOneByte s.par.capQB s.qb s.qa qb qa

theorem responderActs_refl (s : State) : ResponderActs s s := ⟨_, _, _, _, rfl, movesAtMostOneByte_refl ..⟩

theorem responderActs_decodeStep (s : State) : ResponderActs s (decodeStep .responder s) := by
  obtain ⟨bs, rx, result, label, hd, hread⟩ := decodeStep_responder s
  exact ⟨_, _, _, _, hd, movesAtMostOneByte_of_read hread⟩

theorem responderActs_encodeStep {s e : State} (h : encodeStep .responder s = .next e) : ResponderActs s e := by
  obtain ⟨sent, tx, label, he, hsent⟩ := encodeStep_responder h
  exact ⟨_, _, _, _, he, movesAtMostOneByte_of_sent hsent⟩

theorem ResponderActs.update {s u : State} (h : ResponderActs s u) (res : Responder) (host : HostPort) :
    ResponderActs s { u with res := res, host := host } := by
  obtain ⟨_, qa, qb, _, rfl, hmoves⟩ := h
  exact ⟨res, qa, qb, host, rfl, hmoves⟩

theorem responderActs_waitCommand (s : State) : ResponderActs s (responderWaitCommand s) := by
  have hd := responderActs_decodeStep s
  rcases responderWaitCommand_cases s with ⟨-, hr⟩ | ⟨-, hr⟩ <;> rw [hr]
  · exact hd
  · exact hd.update _ _

theorem responderActs_receive (s : State) : ResponderActs s (responderReceive s) := by
  have hd := responderActs_decodeStep s
  rcases responderReceive_cases s with ⟨-, hr⟩ | ⟨-, hr⟩ | hr <;> rw [hr]
  · exact hd
  · exact hd.update _ _
  · exact hd.update _ _

theorem responderActs_step {s t : State} (h : responderStep s = .next t) : ResponderActs s t := by
  have hd := responderActs_decodeStep s
  rcases responderStep_cases h with ⟨-, rfl⟩ | ⟨-, rfl⟩ | ⟨-, rfl⟩ | ⟨-, -, -, rfl⟩ | ⟨-, -, -, rfl⟩ |
    ⟨e, -, -, he, ⟨-, rfl⟩ | ⟨-, rfl⟩⟩
  · exact responderActs_waitCommand s
  · exact responderActs_receive s
  · exact (responderActs_refl s).update _ _
  · exact hd
  · exact hd.update _ _
  · exact responderActs_encodeStep he
  · exact (responderActs_encodeStep he).update _ _

/-- Settles O53: every arm of an activation is its one codec call, or none, and writes to the station's own record. -/
theorem activationMovesAtMostOneByte : Obligations.ActivationMovesAtMostOneByte := by
  intro s t
  constructor
  · intro h
    obtain ⟨ini, qa, qb, host, rfl, hmoves⟩ := initiatorActs_step h
    exact ⟨rfl, rfl, rfl, rfl, rfl, rfl, rfl, hmoves⟩
  · intro h
    obtain ⟨res, qa, qb, host, rfl, hmoves⟩ := responderActs_step h
    exact ⟨rfl, rfl, rfl, rfl, rfl, rfl, rfl, hmoves⟩

end Sys2Proof.Machine
end

section
/-! PROOFS. The sizes of the state (R23, R61, R239): what every operation keeps of `Sized`, up to one step. -/

namespace Sys2Proof.Machine

/-! ## Updates of the state -/

theorem Sized.of_next {u t : State} (h : Sized u) (he : (Host.Outcome.next u : Out) = .next t) : Sized t := by
  cases he
  exact h

theorem Sized.report {s : State} (h : Sized s) (ret : Ret) (label : Option Condition) : Sized (s.report ret label) := h

theorem Sized.quiet {s : State} (h : Sized s) : Sized s.quiet := h

theorem Sized.link {s : State} (h : Sized s) (st : Station) : (s.link st).Sized s.par.n := by
  obtain ⟨-, -, -, -, -, hini, hres⟩ := h
  cases st
  · exact hini
  · exact hres

theorem Sized.rxPayload_length {s : State} (h : Sized s) (st : Station) :
    (s.rx st).packet.payload.length = s.par.n := by
  obtain ⟨-, hrx, -⟩ := h.link st
  exact hrx

theorem Sized.setLink {s : State} (h : Sized s) (st : Station) {l : Link} (hl : l.Sized s.par.n) :
    Sized (s.setLink st l) := by
  obtain ⟨hn, hqa, hqb, hwf, hclock, hini, hres⟩ := h
  cases st
  · exact ⟨hn, hqa, hqb, hwf, hclock, hl, hres⟩
  · exact ⟨hn, hqa, hqb, hwf, hclock, hini, hl⟩

theorem Sized.setTx {s : State} (h : Sized s) (st : Station) (x : TxContext) : Sized (s.setTx st x) :=
  h.setLink st (h.link st)

theorem Sized.setTxPacket {s : State} (h : Sized s) (st : Station) {x : Packet} (hx : x.payload.length = s.par.n) :
    Sized (s.setTxPacket st x) := by
  obtain ⟨-, hrx, hresult⟩ := h.link st
  exact h.setLink st ⟨hx, hrx, hresult⟩

theorem Sized.setRx {s : State} (h : Sized s) (st : Station) {x : RxContext} (hx : x.packet.payload.length = s.par.n) :
    Sized (s.setRx st x) := by
  obtain ⟨htx, -, hresult⟩ := h.link st
  exact h.setLink st ⟨htx, hx, hresult⟩

theorem Sized.setResult {s : State} (h : Sized s) (st : Station) {x : ResultBuffer} (hx : x.payload.length = s.par.n) :
    Sized (s.setResult st x) := by
  obtain ⟨htx, hrx, -⟩ := h.link st
  exact h.setLink st ⟨htx, hrx, hx⟩

theorem Sized.setQueue {s : State} (h : Sized s) (q : Queue) {bs : List Byte} (hbs : bs.length ≤ s.capacity q) :
    Sized (s.setQueue q bs) := by
  obtain ⟨hn, hqa, hqb, hwf, hclock, hini, hres⟩ := h
  have hwf' := Memory.wf_setQueue hwf q bs hbs
  cases q
  · exact ⟨hn, hqa, hqb, hwf', hclock, hini, hres⟩
  · exact ⟨hn, hqa, hqb, hwf', hclock, hini, hres⟩

theorem Sized.queue_length {s : State} (h : Sized s) (q : Queue) : (s.queue q).length ≤ s.capacity q := by
  obtain ⟨-, -, -, hwf, -⟩ := h
  exact Memory.wf_queue hwf q

/-- A clock reduced to its width is within it (R239). -/
theorem Sized.setClock {s : State} (h : Sized s) (t : Nat) : Sized { s with clock := t % 2 ^ s.par.clockW } := by
  obtain ⟨hn, hqa, hqb, hwf, -, hini, hres⟩ := h
  exact ⟨hn, hqa, hqb, hwf, Nat.mod_lt _ (Nat.two_pow_pos _), hini, hres⟩

/-! ## The receiver -/

theorem rxAfter_length (n : Nat) (rx : RxContext) (b : Byte) :
    (rxAfter n rx b).packet.payload.length = rx.packet.payload.length := by
  unfold rxAfter
  cases classify rx b <;> simp

theorem Sized.route {s : State} (h : Sized s) (st : Station) (d : Byte) : Sized (s.route st d) :=
  h.setRx st (by simpa using h.rxPayload_length st)

theorem Sized.validateFrame {s : State} (h : Sized s) (st : Station) : Sized (validateFrame st s) := by
  have hp := h.rxPayload_length st
  rcases validateFrame_cases st s with ⟨c, -, hv⟩ | ⟨-, -, hv⟩ | ⟨-, -, hv⟩ <;> rw [hv]
  · exact h.report _ _
  · exact h.quiet
  · exact ((h.setResult st hp).setRx st (by simpa using hp)).quiet

theorem Sized.consume {s : State} (h : Sized s) (st : Station) (b : Byte) : Sized (consume st b s) := by
  have hp := h.rxPayload_length st
  rcases consume_cases st b s with ⟨-, hc⟩ | ⟨-, hc⟩ <;> rw [hc]
  · exact (h.setRx st (x := { s.rx st with assembled := true }) hp).validateFrame st
  · exact (h.setRx st (by rw [rxAfter_length, hp])).quiet

theorem Sized.deliver {s : State} (h : Sized s) (st : Station) (b : Byte) : Sized (deliver st b s) := by
  unfold Machine.deliver
  split_ifs
  · exact h.quiet
  · exact h.consume st b

theorem Sized.deliverAll {s : State} (h : Sized s) (st : Station) (bs : List Byte) : Sized (deliverAll st bs s) := by
  induction bs generalizing s with
  | nil => exact h
  | cons b bs ih => exact ih (h.deliver st b)

theorem Sized.decodeStep {s : State} (h : Sized s) (st : Station) : Sized (decodeStep st s) := by
  rcases decodeStep_cases st s with ⟨-, hd⟩ | ⟨-, -, hd⟩ | ⟨b, rest, -, hq, hd⟩ <;> rw [hd]
  · exact h.quiet
  · exact h.report _ _
  · have hlen := h.queue_length st.inQueue
    rw [hq, List.length_cons] at hlen
    exact (h.setQueue st.inQueue (by omega)).consume st b

/-! ## The transmitter -/

theorem Sized.encodeStep {st : Station} {s e : State} (h : Sized s) (he : encodeStep st s = .next e) : Sized e := by
  obtain ⟨sent, tx, label, rfl, hsent⟩ := encodeStep_shape he
  refine ((h.setQueue st.outQueue ?_).setTx st tx).report _ _
  rcases hsent with rfl | ⟨b, rfl, hroom⟩
  · simpa using h.queue_length st.outQueue
  · simpa using hroom

/-! ## The activations -/

theorem Sized.abandonFrame {s : State} (h : Sized s) (st : Station) : Sized (abandonFrame st s) := by
  have hrx := h.setRx st (rxInit_length s.par.n)
  cases st
  · exact hrx
  · exact hrx

theorem Sized.initiatorPrepare {s : State} (h : Sized s) : Sized (initiatorPrepare s) :=
  ((h.setTxPacket .initiator s.cfgPayload_length).setTx .initiator _).setRx .initiator (rxInit_length _)

theorem Sized.initiatorReceive {s : State} (h : Sized s) : Sized (initiatorReceive s) := by
  have hd := h.decodeStep .initiator
  rcases initiatorReceive_cases s with ⟨-, hr⟩ | ⟨-, hr⟩ | hr <;> rw [hr]
  · exact hd
  · exact hd
  · exact hd.abandonFrame .initiator

theorem Sized.initiatorStep {s t : State} (h : Sized s) (ht : initiatorStep s = .next t) : Sized t := by
  have hd := h.decodeStep .initiator
  rcases initiatorStep_cases ht with ⟨-, rfl⟩ | ⟨e, -, he, ⟨-, rfl⟩ | ⟨-, rfl⟩⟩ | ⟨-, -, rfl⟩ | ⟨-, -, -, rfl⟩ |
    ⟨-, -, -, rfl⟩ | ⟨-, rfl⟩ | ⟨-, rfl⟩
  · exact h.initiatorPrepare
  · exact h.encodeStep he
  · exact (h.encodeStep he : Sized e)
  · exact hd
  · exact hd
  · exact hd
  · exact h.initiatorReceive
  · exact h

theorem Sized.responderWaitCommand {s : State} (h : Sized s) : Sized (responderWaitCommand s) := by
  have hd := h.decodeStep .responder
  rcases responderWaitCommand_cases s with ⟨-, hr⟩ | ⟨-, hr⟩ <;> rw [hr]
  · exact hd
  · exact hd

theorem Sized.responderReceive {s : State} (h : Sized s) : Sized (responderReceive s) := by
  have hd := h.decodeStep .responder
  rcases responderReceive_cases s with ⟨-, hr⟩ | ⟨-, hr⟩ | hr <;> rw [hr]
  · exact hd
  · exact hd
  · exact hd.abandonFrame .responder

theorem Sized.responderProcess {s : State} (h : Sized s) : Sized (responderProcess s) := by
  obtain ⟨-, -, hresult⟩ := h.link .responder
  have hreply := (cmdProcess_length s.res.link.result.control s.res.link.result.payload).trans hresult
  exact ((h.setTxPacket .responder hreply).setTx .responder _).setRx .responder (rxInit_length _)

theorem Sized.responderStep {s t : State} (h : Sized s) (ht : responderStep s = .next t) : Sized t := by
  have hd := h.decodeStep .responder
  rcases responderStep_cases ht with ⟨-, rfl⟩ | ⟨-, rfl⟩ | ⟨-, rfl⟩ | ⟨-, -, -, rfl⟩ | ⟨-, -, -, rfl⟩ |
    ⟨e, -, -, he, ⟨-, rfl⟩ | ⟨-, rfl⟩⟩
  · exact h.responderWaitCommand
  · exact h.responderReceive
  · exact h.responderProcess
  · exact hd
  · exact hd.setRx .responder (by simp [rxOpen, rxInit_length])
  · exact h.encodeStep he
  · exact (h.encodeStep he).setRx .responder (rxInit_length _)

/-! ## Resets and the lines of a script -/

theorem Sized.blockReset {s : State} (h : Sized s) : Sized (blockReset s) := by
  obtain ⟨hn, hqa, hqb, hwf, hclock, -, -⟩ := h
  exact ⟨hn, hqa, hqb, hwf, hclock, Link.sized_reset _, Link.sized_reset _⟩

theorem Sized.rebuild {s : State} (h : Sized s) {n : Nat} (hn : 1 ≤ n) : Sized (rebuild n s) := by
  obtain ⟨-, hqa, hqb, hwf, hclock, -, -⟩ := h
  exact ⟨hn, hqa, hqb, hwf, hclock, Link.sized_reset _, Link.sized_reset _⟩

theorem Sized.setParam {name : ParamName} {v : Nat} {s : State} (h : Sized s) (ha : AcceptsParam name v s) :
    Sized (setParam name v s) := by
  obtain ⟨hallows, hfits⟩ := ha
  obtain ⟨hn, hqa, hqb, hwf, hclock, hini, hres⟩ := id h
  cases name with
  | n =>
    by_cases hv : v = s.par.n
    · rwa [hv, setParam_n_same]
    · rw [setParam_n_of_ne v s hv]
      exact h.rebuild (of_decide_eq_true hallows)
  | c =>
    have hv : 1 ≤ v := of_decide_eq_true hallows
    exact ⟨hn, hv, hv, (Memory.wf_iff _).2 (hfits rfl), hclock, hini, hres⟩
  | replyTimeoutMs => exact h
  | clockW => exact ⟨hn, hqa, hqb, hwf, Nat.mod_lt _ (Nat.two_pow_pos _), hini, hres⟩

/-- A write from outside that is not refused has found room. -/
theorem externalWrite_next {q : Queue} {bs : List Byte} {s t : State} (h : externalWrite q bs s = .next t) :
    (s.queue q).length + bs.length ≤ s.capacity q ∧ t = (s.setQueue q (s.queue q ++ bs)).quiet := by
  unfold externalWrite at h
  split_ifs at h with hroom
  exact ⟨hroom, (Host.Outcome.next.inj h).symm⟩

/-- A read from outside that is not refused has taken the oldest byte. -/
theorem externalRead_next {q : Queue} {s t : State} (h : externalRead q s = .next t) :
    ∃ b rest, s.queue q = b :: rest ∧ t = (s.setQueue q rest).report (.byte b) none := by
  unfold externalRead at h
  cases hq : s.queue q with
  | nil => simp [hq] at h
  | cons b rest => exact ⟨b, rest, rfl, by simpa [hq] using h.symm⟩

/-- A LOOP line that is not refused has changed the script only. -/
theorem scriptLoop_next {count lines : Nat} {s t : State} (h : exec (.scriptLoop count lines) s = .next t) :
    lines ≤ s.prog.length ∧
      t = { s with prog := repeatLines count (s.prog.take lines) ++ s.prog.drop lines }.quiet := by
  change execScriptLoop count lines s = .next t at h
  unfold execScriptLoop at h
  split_ifs at h with hshort
  exact ⟨not_lt.1 hshort, (Host.Outcome.next.inj h).symm⟩

theorem Sized.externalWrite {q : Queue} {bs : List Byte} {s t : State} (h : Sized s)
    (ht : externalWrite q bs s = .next t) : Sized t := by
  obtain ⟨hroom, rfl⟩ := externalWrite_next ht
  exact (h.setQueue q (by simpa using hroom)).quiet

theorem Sized.externalRead {q : Queue} {s t : State} (h : Sized s) (ht : externalRead q s = .next t) : Sized t := by
  obtain ⟨b, rest, hq, rfl⟩ := externalRead_next ht
  have hlen := h.queue_length q
  rw [hq, List.length_cons] at hlen
  exact (h.setQueue q (by omega)).report _ _

/-! ## Steps -/

theorem Sized.tellArm {named : Bool} {o : Out} {t : State} (h : ∀ u, o = .next u → Sized u) (ht : tellArm named o = .next t) :
    Sized t := by
  obtain ⟨u, hu, rfl⟩ := next_of_tellArm ht
  exact (h u hu).report _ _

/-- Every instruction keeps the sizes of the state, one case for each shared operation. -/
theorem Sized.exec {i : Instr} {s t : State} (h : Sized s) (ht : exec i s = .next t) : Sized t := by
  cases i with
  | flag | escape | data | escaped => exact (h.deliver _ _).of_next ht
  | escFlag | escEscape | escOther | frame | request | reply => exact (h.deliverAll _ _).of_next ht
  | addrInitiator | addrResponder | addrOther | cmdComplement | cmdReverse | cmdReserved | posAddress | posControl | posPayload
  | posFcsFirst | posFcsSecond | posOverflow | route => exact ((h.route _ _).report _ _).of_next ht
  | fcs | stageStartFlag | stageAddress | stageControl | stagePayload | stageFcsHigh | stageFcsLow | stageEndFlag | stageDone
  | istatePrepare | istateTransmit | istateAwaitReply | istateReceive | istateProcess | rstateWaitCommand | rstateReceive
  | rstateProcess | rstateReply | crc16 | qIsFull | qIsEmpty | timerNow | timerSetDeadline | timerIsExpired | cmdProcess
  | cmdProcessComplement | cmdProcessReverse | cmdProcessUnknown | scriptExpect => exact (h.report _ _).of_next ht
  | encodeDone | encodeBackpressure | encodeStartFlag | encodeEndFlag | encodeEscape2 | encodeAddress | encodeControl
  | encodePayload | encodeFcsHigh | encodeFcsLow => exact .tellArm (fun _ => h.encodeStep) ht
  | advance | txInit => exact (h.setTx _ _).quiet.of_next ht
  | decodeStalled | decodeEmpty | decodeUnescape | decodeEscape | decodeFlagOpen | decodeFlagClose | decodeData =>
    exact .tellArm (fun _ => (h.decodeStep _).of_next) ht
  | validateFrame => exact (h.validateFrame _).of_next ht
  | rxInit => exact (h.setRx _ (rxInit_length _)).quiet.of_next ht
  | rxOpen => exact (h.setRx _ (x := rxOpen s.par.n) (rxInit_length _)).quiet.of_next ht
  | initiatorPrepare | initiatorTransmit | initiatorAwaitStart | initiatorAwaitTimeout | initiatorReceive | initiatorProcess =>
    exact .tellArm (fun _ => h.initiatorStep) ht
  | responderWaitCommand | responderReceive | responderProcess | responderReplyPoll | responderReplyPreempt
  | responderReplySend => exact .tellArm (fun _ => h.responderStep) ht
  | scriptStepI => exact h.initiatorStep ht
  | scriptStepR => exact h.responderStep ht
  | qWriteByte | scriptPush => exact h.externalWrite ht
  | qReadByte | scriptPop => exact h.externalRead ht
  | qReset q => exact (h.setQueue q (Nat.zero_le _)).quiet.of_next ht
  | reset => exact h.blockReset.quiet.of_next ht
  | scriptReset =>
    exact ((h.blockReset.setQueue .qa (bs := []) (Nat.zero_le _)).setQueue .qb (bs := []) (Nat.zero_le _)).quiet.of_next ht
  | scriptCfg =>
    obtain rfl := Host.Outcome.next.inj ht
    exact h
  | scriptParam name v =>
    by_cases ha : AcceptsParam name v s
    · rw [exec_scriptParam_of_accepts ha] at ht
      exact (h.setParam ha).quiet.of_next ht
    · rw [exec_scriptParam_of_not_accepts ha] at ht
      cases ht
  | scriptClock | scriptTick => exact (h.setClock _).quiet.of_next ht
  | scriptLoop count lines =>
    obtain ⟨-, rfl⟩ := scriptLoop_next ht
    exact h

/-- A step answers a next state where the script's next word is a well-formed instruction that does, where it is bytes on the
wire that are no instruction, and where there is no script and the activation in turn does. -/
theorem step_cases {s t : State} (h : step s = .next t) :
    (∃ w rest i, s.prog = w :: rest ∧ decode w = .ok i ∧ exec i { s with prog := rest } = .next t) ∨
      (∃ w rest, s.prog = w :: rest ∧ w.fmt.onWire = true ∧ t = deliverAll w.st w.bytes { s with prog := rest }.quiet) ∨
      (s.prog = [] ∧ exec (activation s.turn) { s.freeTick with turn := s.turn.peer } = .next t) := by
  unfold step at h
  cases hp : s.prog with
  | nil => exact .inr (.inr ⟨rfl, by simpa only [hp] using h⟩)
  | cons w rest =>
    simp only [hp] at h
    cases hw : decode w with
    | ok i =>
      simp only [hw] at h
      split_ifs at h
      exact .inl ⟨w, rest, i, rfl, hw, h⟩
    | error e =>
      simp only [hw, runRejected] at h
      split_ifs at h with hwire
      exact .inr (.inl ⟨w, rest, rfl, hwire, (Host.Outcome.next.inj h).symm⟩)

theorem Sized.freeTick {s : State} (h : Sized s) : Sized s.freeTick := h.setClock _

/-- Settles O57: each kind of step runs an instruction or hands bytes to a receiver, and both keep the sizes. -/
theorem stepKeepsTheStateSized : Obligations.StepKeepsTheStateSized := by
  intro s t h ht
  rcases step_cases ht with ⟨w, rest, i, -, -, hi⟩ | ⟨w, rest, -, -, rfl⟩ | ⟨-, hi⟩
  · exact Sized.exec (s := { s with prog := rest }) h hi
  · exact Sized.deliverAll (s := { s with prog := rest }.quiet) h w.st w.bytes
  · exact Sized.exec (s := { s.freeTick with turn := s.turn.peer }) h.freeTick hi

end Sys2Proof.Machine
end

section
/-! PROOFS. The invariants of R49: what each codec call keeps of a context, what they say in each state of a station, and that
every line of a script keeps them. -/

namespace Sys2Proof.Machine

/-! ## The transmit context -/

theorem needsStuffing_iff (b : Byte) : needsStuffing b = true ↔ b = Config.flag ∨ b = Config.escape := by
  simp [needsStuffing]

theorem stuffable_of_logicalByte {tx : TxContext} {pkt : Packet} {b : Byte} (h : logicalByte tx pkt = some b) :
    Stage.stuffable tx.stage = true := by
  unfold logicalByte at h
  cases hs : tx.stage <;> simp [hs] at h <;> rfl

theorem txInit_ok (n : Nat) (crc : Word) : (txInit crc).Ok n := by
  simp [TxContext.Ok, txInit, Stage.number]

/-- `Advance` keeps the context consistent where no second half of an escape is pending. -/
theorem TxContext.Ok.advance {n : Nat} {tx : TxContext} (h : tx.Ok n) (hn : 1 ≤ n) (he : tx.escPending = false) :
    (advance n tx).Ok n := by
  obtain ⟨hcursor, -, hpayload, hafter⟩ := h
  unfold Machine.advance
  cases hs : tx.stage with
  | payload =>
    have hroom := hpayload hs
    by_cases hlast : tx.cursor + 1 = n
    · simp [TxContext.Ok, he, hlast, Stage.number]
    · have hnext : tx.cursor + 1 + 1 ≤ n := by omega
      exact ⟨hroom, by simp [he], fun _ => hnext, by simp [hlast, Stage.number]⟩
  | control => simp [TxContext.Ok, he, hn, Stage.number]
  | address => simp [TxContext.Ok, he, hcursor, Stage.number]
  | startFlag => simp [TxContext.Ok, he, hcursor, hs, Stage.number]
  | fcsHigh | fcsLow | endFlag | done =>
    have hend : tx.cursor = n := hafter (by simp [hs, Stage.number])
    simp [TxContext.Ok, he, hend, hs]

theorem encodeStep_tx_ok {st : Station} {s e : State} (h : (s.tx st).Ok s.par.n) (hn : 1 ≤ s.par.n)
    (he : encodeStep st s = .next e) : (e.tx st).Ok s.par.n := by
  obtain ⟨hcursor, hesc, hpayload, hafter⟩ := id h
  rcases encodeStep_cases st s with ⟨label, hs, -⟩ | ⟨b, tx, hs, -, -, htx⟩ | ⟨hs, -⟩
  · obtain rfl := Host.Outcome.next.inj (hs.symm.trans he)
    simpa using h
  · obtain rfl := Host.Outcome.next.inj (hs.symm.trans he)
    simp only [State.emit, State.quiet_tx, State.setTx_tx]
    rcases htx with ⟨-, -, rfl⟩ | ⟨hp, hstart, -, rfl⟩ | ⟨hp, hend, -, rfl⟩ | ⟨d, -, hd, hstuff, -, rfl⟩ |
      ⟨hp, -, -, rfl⟩
    · exact TxContext.Ok.advance ⟨hcursor, by simp, hpayload, hafter⟩ hn rfl
    · exact ⟨hcursor, by simp [hp], by simp, by simp [Stage.number]⟩
    · exact ⟨hcursor, by simp [hp], by simp, fun _ => hafter (by simp [hend, Stage.number])⟩
    · exact ⟨hcursor, fun _ => ⟨stuffable_of_logicalByte hd, (needsStuffing_iff d).1 hstuff⟩, hpayload, hafter⟩
    · exact TxContext.Ok.advance ⟨hcursor, by simp [hp], hpayload, hafter⟩ hn hp
  · cases hs.symm.trans he

/-! ## The receive context -/

theorem rxInit_ok (n : Nat) : (rxInit n).Ok n := by simp [RxContext.Ok, rxInit]

theorem rxOpen_ok (n : Nat) : (rxOpen n).Ok n := by simp [RxContext.Ok, rxOpen, rxInit]

/-- A context that is not closed is consistent when its counter is in range and it is not valid. -/
theorem RxContext.ok_of_not_assembled {n : Nat} {rx : RxContext} (ha : rx.assembled = false) (hp : rx.pos ≤ n + 5)
    (hv : rx.valid = false) : rx.Ok n := by
  simp [RxContext.Ok, ha, hp, hv]

theorem RxContext.Ok.valid_eq_false {n : Nat} {rx : RxContext} (h : rx.Ok n) (ha : rx.assembled = false) :
    rx.valid = false := by
  obtain ⟨-, -, hvalid⟩ := h
  refine Bool.eq_false_iff.2 fun hv => ?_
  obtain ⟨ha', -⟩ := hvalid hv
  simp [ha] at ha'

theorem RxContext.Ok.not_assembled {n : Nat} {rx : RxContext} (h : rx.Ok n) (hs : rx.started = false) :
    rx.assembled = false := by
  obtain ⟨-, hassembled, -⟩ := h
  refine Bool.eq_false_iff.2 fun ha => ?_
  obtain ⟨hs', -⟩ := hassembled ha
  simp [hs] at hs'

theorem routeByte_pos_le {n : Nat} {rx : RxContext} (d : Byte) (h : rx.pos ≤ n + 5) : (routeByte n rx d).pos ≤ n + 5 := by
  rw [routeByte_pos]
  split_ifs <;> omega

theorem rxAfter_ok {n : Nat} {rx : RxContext} (h : rx.Ok n) (ha : rx.assembled = false) (b : Byte) :
    (rxAfter n rx b).Ok n := by
  have hv := h.valid_eq_false ha
  obtain ⟨hpos, -, -⟩ := h
  unfold rxAfter
  rcases classify_cases rx b with ⟨-, hc⟩ | ⟨-, -, hc⟩ | ⟨-, -, -, hc⟩ | ⟨hu, -, hs, hc⟩ | ⟨-, -, -, hc⟩ <;> simp only [hc]
  · exact RxContext.ok_of_not_assembled (by simpa using ha) (routeByte_pos_le _ hpos) (by simpa using hv)
  · exact RxContext.ok_of_not_assembled ha hpos hv
  · exact RxContext.ok_of_not_assembled ha (Nat.zero_le _) hv
  · exact ⟨hpos, fun _ => ⟨hs, hu⟩, by simp [hv]⟩
  · exact RxContext.ok_of_not_assembled (by simpa using ha) (routeByte_pos_le _ hpos) (by simpa using hv)

theorem rxAfter_started {n : Nat} {rx : RxContext} (h : rx.started = true) (b : Byte) : (rxAfter n rx b).started = true := by
  unfold rxAfter
  cases classify rx b <;> simp [h]

theorem rxAfter_valid (n : Nat) (rx : RxContext) (b : Byte) : (rxAfter n rx b).valid = rx.valid := by
  unfold rxAfter
  cases classify rx b <;> simp

/-- Only a flag that finds a frame open closes one. -/
theorem rxAfter_assembled {n : Nat} {rx : RxContext} {b : Byte} (h : classify rx b ≠ .flagClose) :
    (rxAfter n rx b).assembled = rx.assembled := by
  unfold rxAfter
  cases hc : classify rx b <;> simp [hc] at h ⊢

theorem classify_ne_flagClose {rx : RxContext} (h : rx.started = false) (b : Byte) : classify rx b ≠ .flagClose := by
  rcases classify_cases rx b with ⟨-, hc⟩ | ⟨-, -, hc⟩ | ⟨-, -, -, hc⟩ | ⟨-, -, hs, -⟩ | ⟨-, -, -, hc⟩
  case inr.inr.inr.inl => simp [h] at hs
  all_goals simp [hc]

/-- What a receiver's work keeps: a consistent context stays so, an open frame is not lost, no frame is closed that was not open,
and a frame found valid has left a known command in the result buffer (R103, R172). -/
structure ReceiverKeeps (st : Station) (s u : State) : Prop where
  ok : (u.rx st).Ok s.par.n
  staysOpen : (s.rx st).started = true → (u.rx st).started = true
  notClosed : (s.rx st).started = false → (u.rx st).assembled = false
  known : (s.rx st).valid = false → (u.rx st).valid = true → knownCommand (u.result st).control = true

theorem receiverKeeps_report {st : Station} {s : State} (h : (s.rx st).Ok s.par.n) (ret : Ret) (label : Option Condition) :
    ReceiverKeeps st s (s.report ret label) where
  ok := by simpa using h
  staysOpen := by simp
  notClosed := by simpa using h.not_assembled
  known hv hv' := by simp [hv] at hv'

theorem receiverKeeps_validateFrame {st : Station} {s : State} (h : (s.rx st).Ok s.par.n) :
    ReceiverKeeps st s (validateFrame st s) := by
  rcases validateFrame_cases st s with ⟨c, -, hf⟩ | ⟨-, -, hf⟩ | ⟨hlabel, -, hf⟩ <;> rw [hf]
  · exact receiverKeeps_report h _ _
  · exact receiverKeeps_report h _ _
  · obtain ⟨ha, hpos, -, hknown, -⟩ := validationLabel_eq_none.1 hlabel
    obtain ⟨hle, hclosed, -⟩ := id h
    exact {
      ok := by simpa using ⟨hle, hclosed, fun _ => ⟨ha, hpos⟩⟩
      staysOpen := by simp
      notClosed := by simpa using h.not_assembled
      known := fun _ _ => by simpa using hknown }

theorem receiverKeeps_consume {st : Station} {s : State} (h : (s.rx st).Ok s.par.n) (ha : (s.rx st).assembled = false)
    (b : Byte) : ReceiverKeeps st s (consume st b s) := by
  have hok := rxAfter_ok h ha b
  have hv := h.valid_eq_false ha
  rcases consume_cases st b s with ⟨hc, hu⟩ | ⟨hc, hu⟩ <;> rw [hu]
  · have hafter : rxAfter s.par.n (s.rx st) b = { s.rx st with assembled := true } := by simp [rxAfter, hc]
    rw [← hafter]
    have hk := receiverKeeps_validateFrame (st := st) (s := s.setRx st (rxAfter s.par.n (s.rx st) b)) (by simpa using hok)
    exact {
      ok := by simpa using hk.ok
      staysOpen := fun hs => hk.staysOpen (by simpa using rxAfter_started hs b)
      notClosed := fun hs => absurd hc (classify_ne_flagClose hs b)
      known := fun _ => hk.known (by simpa [rxAfter_valid] using hv) }
  · exact {
      ok := by simpa using hok
      staysOpen := fun hs => by simpa using rxAfter_started hs b
      notClosed := fun _ => by simpa [rxAfter_assembled hc] using ha
      known := fun _ hv' => by simp [rxAfter_valid, hv] at hv' }

theorem receiverKeeps_decodeStep {st : Station} {s : State} (h : (s.rx st).Ok s.par.n) :
    ReceiverKeeps st s (decodeStep st s) := by
  rcases decodeStep_cases st s with ⟨-, hd⟩ | ⟨-, -, hd⟩ | ⟨b, rest, ha, -, hd⟩ <;> rw [hd]
  · exact receiverKeeps_report h _ _
  · exact receiverKeeps_report h _ _
  · have hk := receiverKeeps_consume (st := st) (s := s.setQueue st.inQueue rest) (by simpa using h) (by simpa using ha) b
    exact {
      ok := by simpa using hk.ok
      staysOpen := by simpa using hk.staysOpen
      notClosed := by simpa using hk.notClosed
      known := by simpa using hk.known }

end Sys2Proof.Machine
end

section
/-! PROOFS. The invariants of the two stations, state by state, and that every line of a script keeps them (R49, R118). -/

namespace Sys2Proof.Machine

/-! ## The initiator -/

theorem Initiator.ok_prepare {i : Initiator} (h : i.state = .prepare) : i.Ok ↔ i.deadline.armed = false := by
  simp [Initiator.Ok, h]

theorem Initiator.ok_transmit {i : Initiator} (h : i.state = .transmit) :
    i.Ok ↔ i.deadline.armed = false ∧ i.link.rx.started = false := by
  simp [Initiator.Ok, h]

theorem Initiator.ok_awaitReply {i : Initiator} (h : i.state = .awaitReply) :
    i.Ok ↔ i.deadline.armed = true ∧ i.link.tx.stage = .done ∧ i.link.rx.started = false := by
  simp [Initiator.Ok, h]

theorem Initiator.ok_receive {i : Initiator} (h : i.state = .receive) :
    i.Ok ↔ i.deadline.armed = false ∧ i.link.tx.stage = .done ∧ i.link.rx.started = true ∧ i.link.rx.assembled = false := by
  simp [Initiator.Ok, h]

theorem Initiator.ok_process {i : Initiator} (h : i.state = .process) :
    i.Ok ↔ i.deadline.armed = false ∧ i.link.tx.stage = .done := by
  simp [Initiator.Ok, h]

/-- What `Good` says of the initiator. -/
def Initiator.Consistent (n : Nat) (i : Initiator) : Prop := i.link.tx.Ok n ∧ i.link.rx.Ok n ∧ i.Ok

theorem Initiator.consistent_reset (n : Nat) : (Initiator.reset n).Consistent n :=
  ⟨txInit_ok n _, rxInit_ok n, (Initiator.ok_prepare rfl).2 rfl⟩

theorem Initiator.Consistent.congr {n : Nat} {i j : Initiator} (h : i.Consistent n) (hs : j.state = i.state)
    (hl : j.link = i.link) (hd : j.deadline.armed = i.deadline.armed) : j.Consistent n := by
  simpa [Initiator.Consistent, Initiator.Ok, hs, hl, hd] using h

theorem initiatorReceive_consistent {s : State} (h : s.ini.Consistent s.par.n) (hs : s.ini.state = .receive) :
    (initiatorReceive s).ini.Consistent s.par.n := by
  obtain ⟨htx, hrx, hok⟩ := h
  obtain ⟨harmed, hstage, hstarted, -⟩ := (Initiator.ok_receive hs).1 hok
  have hkeeps : ReceiverKeeps .initiator s (decodeStep .initiator s) := receiverKeeps_decodeStep hrx
  rw [← decodeStep_ini_tx .initiator s] at htx hstage
  rw [← decodeStep_ini_deadline .initiator s] at harmed
  rcases initiatorReceive_cases s with ⟨hopen, hr⟩ | ⟨-, hr⟩ | hr <;> rw [hr]
  · exact ⟨htx, hkeeps.ok, (Initiator.ok_receive (by simpa using hs)).2 ⟨harmed, hstage, hkeeps.staysOpen hstarted, hopen⟩⟩
  · exact ⟨htx, hkeeps.ok, (Initiator.ok_process rfl).2 ⟨harmed, hstage⟩⟩
  · exact ⟨htx, decodeStep_par .initiator s ▸ rxInit_ok _, (Initiator.ok_prepare rfl).2 harmed⟩

theorem initiatorStep_consistent {s t : State} (h : s.ini.Consistent s.par.n) (hn : 1 ≤ s.par.n)
    (ht : initiatorStep s = .next t) : t.ini.Consistent s.par.n := by
  obtain ⟨htx, hrx, hok⟩ := id h
  have hkeeps : ReceiverKeeps .initiator s (decodeStep .initiator s) := receiverKeeps_decodeStep hrx
  have hdtx := decodeStep_ini_tx .initiator s
  rcases initiatorStep_cases ht with ⟨hs, rfl⟩ | ⟨e, hs, he, hdone⟩ | ⟨hs, ⟨hstarted, hopen⟩, rfl⟩ | ⟨hs, -, -, rfl⟩ |
    ⟨hs, hidle, -, rfl⟩ | ⟨hs, rfl⟩ | ⟨hs, rfl⟩
  · have harmed := (Initiator.ok_prepare hs).1 hok
    exact ⟨txInit_ok _ _, rxInit_ok _, (Initiator.ok_transmit rfl).2 ⟨harmed, rfl⟩⟩
  · obtain ⟨harmed, hclosed⟩ := (Initiator.ok_transmit hs).1 hok
    have hetx := encodeStep_tx_ok (st := .initiator) htx hn he
    obtain ⟨sent, tx, label, rfl, -⟩ := encodeStep_initiator he
    rcases hdone with ⟨-, rfl⟩ | ⟨hstage, rfl⟩
    · exact ⟨hetx, hrx, (Initiator.ok_transmit (by exact hs)).2 ⟨harmed, hclosed⟩⟩
    · exact ⟨hetx, hrx, (Initiator.ok_awaitReply rfl).2 ⟨rfl, hstage, hclosed⟩⟩
  · obtain ⟨-, hstage, -⟩ := (Initiator.ok_awaitReply hs).1 hok
    exact ⟨hdtx ▸ htx, hkeeps.ok, (Initiator.ok_receive rfl).2 ⟨rfl, hdtx ▸ hstage, hstarted, hopen⟩⟩
  · exact ⟨hdtx ▸ htx, hkeeps.ok, (Initiator.ok_prepare rfl).2 rfl⟩
  · obtain ⟨harmed, hstage, hclosed⟩ := (Initiator.ok_awaitReply hs).1 hok
    have hstarted : (decodeStep .initiator s).ini.link.rx.started = false :=
      Bool.eq_false_iff.2 fun hst => hidle ⟨hst, hkeeps.notClosed hclosed⟩
    exact ⟨hdtx ▸ htx, hkeeps.ok,
      (Initiator.ok_awaitReply (by simpa using hs)).2 ⟨by simpa using harmed, hdtx ▸ hstage, hstarted⟩⟩
  · exact initiatorReceive_consistent h hs
  · obtain ⟨harmed, -⟩ := (Initiator.ok_process hs).1 hok
    exact ⟨htx, hrx, (Initiator.ok_prepare rfl).2 harmed⟩

/-! ## The responder -/

theorem Responder.ok_waitCommand {r : Responder} (h : r.state = .waitCommand) : r.Ok ↔ r.link.rx.started = false := by
  simp [Responder.Ok, h]

theorem Responder.ok_receive {r : Responder} (h : r.state = .receive) :
    r.Ok ↔ r.link.rx.started = true ∧ r.link.rx.assembled = false := by
  simp [Responder.Ok, h]

theorem Responder.ok_process {r : Responder} (h : r.state = .process) :
    r.Ok ↔ knownCommand r.link.result.control = true := by
  simp [Responder.Ok, h]

theorem Responder.ok_reply {r : Responder} (h : r.state = .reply) : r.Ok ↔ r.link.rx.started = false := by
  simp [Responder.Ok, h]

/-- What `Good` says of the responder. -/
def Responder.Consistent (n : Nat) (r : Responder) : Prop := r.link.tx.Ok n ∧ r.link.rx.Ok n ∧ r.Ok

theorem Responder.consistent_reset (n : Nat) : (Responder.reset n).Consistent n :=
  ⟨txInit_ok n _, rxInit_ok n, (Responder.ok_waitCommand rfl).2 rfl⟩

theorem responderWaitCommand_consistent {s : State} (h : s.res.Consistent s.par.n) (hs : s.res.state = .waitCommand) :
    (responderWaitCommand s).res.Consistent s.par.n := by
  obtain ⟨htx, hrx, hok⟩ := h
  have hclosed := (Responder.ok_waitCommand hs).1 hok
  have hkeeps : ReceiverKeeps .responder s (decodeStep .responder s) := receiverKeeps_decodeStep hrx
  rw [← decodeStep_res_tx .responder s] at htx
  rcases responderWaitCommand_cases s with ⟨hstarted, hr⟩ | ⟨hstarted, hr⟩ <;> rw [hr]
  · exact ⟨htx, hkeeps.ok, (Responder.ok_waitCommand (by simpa using hs)).2 hstarted⟩
  · exact ⟨htx, hkeeps.ok, (Responder.ok_receive rfl).2 ⟨hstarted, hkeeps.notClosed hclosed⟩⟩

theorem responderReceive_consistent {s : State} (h : s.res.Consistent s.par.n) (hs : s.res.state = .receive) :
    (responderReceive s).res.Consistent s.par.n := by
  obtain ⟨htx, hrx, hok⟩ := h
  obtain ⟨hstarted, hopen⟩ := (Responder.ok_receive hs).1 hok
  have hkeeps : ReceiverKeeps .responder s (decodeStep .responder s) := receiverKeeps_decodeStep hrx
  rw [← decodeStep_res_tx .responder s] at htx
  rcases responderReceive_cases s with ⟨hstill, hr⟩ | ⟨hvalid, hr⟩ | hr <;> rw [hr]
  · exact ⟨htx, hkeeps.ok, (Responder.ok_receive (by simpa using hs)).2 ⟨hkeeps.staysOpen hstarted, hstill⟩⟩
  · exact ⟨htx, hkeeps.ok, (Responder.ok_process rfl).2 (hkeeps.known (hrx.valid_eq_false hopen) hvalid)⟩
  · exact ⟨htx, decodeStep_par .responder s ▸ rxInit_ok _, (Responder.ok_waitCommand rfl).2 rfl⟩

theorem responderStep_consistent {s t : State} (h : s.res.Consistent s.par.n) (hn : 1 ≤ s.par.n)
    (ht : responderStep s = .next t) : t.res.Consistent s.par.n := by
  obtain ⟨htx, hrx, hok⟩ := id h
  have hkeeps : ReceiverKeeps .responder s (decodeStep .responder s) := receiverKeeps_decodeStep hrx
  have hdtx := decodeStep_res_tx .responder s
  rcases responderStep_cases ht with ⟨hs, rfl⟩ | ⟨hs, rfl⟩ | ⟨hs, rfl⟩ | ⟨hs, -, hstarted, rfl⟩ | ⟨hs, -, -, rfl⟩ |
    ⟨e, hs, -, he, hdone⟩
  · exact responderWaitCommand_consistent h hs
  · exact responderReceive_consistent h hs
  · exact ⟨txInit_ok _ _, rxInit_ok _, (Responder.ok_reply rfl).2 rfl⟩
  · exact ⟨hdtx ▸ htx, hkeeps.ok, (Responder.ok_reply (by simpa using hs)).2 hstarted⟩
  · exact ⟨hdtx ▸ htx, rxOpen_ok _, (Responder.ok_receive rfl).2 ⟨rfl, rfl⟩⟩
  · have hclosed := (Responder.ok_reply hs).1 hok
    have hetx := encodeStep_tx_ok (st := .responder) htx hn he
    obtain ⟨sent, tx, label, rfl, -⟩ := encodeStep_responder he
    rcases hdone with ⟨-, rfl⟩ | ⟨-, rfl⟩
    · exact ⟨hetx, hrx, (Responder.ok_reply hs).2 hclosed⟩
    · exact ⟨hetx, rxInit_ok _, (Responder.ok_waitCommand rfl).2 rfl⟩

/-! ## The lines of a script -/

/-- The instructions that are lines of a script (R118). -/
inductive ScriptLine : Instr → Prop
  | reset : ScriptLine .scriptReset
  | cfg (cmd : Byte) (payload : List Byte) : ScriptLine (.scriptCfg cmd payload)
  | param (name : ParamName) (value : Nat) : ScriptLine (.scriptParam name value)
  | clock (t : Nat) : ScriptLine (.scriptClock t)
  | tick (d : Nat) : ScriptLine (.scriptTick d)
  | stepI : ScriptLine .scriptStepI
  | stepR : ScriptLine .scriptStepR
  | loop (count lines : Nat) : ScriptLine (.scriptLoop count lines)
  | push (q : Queue) (bytes : List Byte) : ScriptLine (.scriptPush q bytes)
  | pop (q : Queue) : ScriptLine (.scriptPop q)
  | expect (p : Pred) : ScriptLine (.scriptExpect p)

theorem scriptLine_activation (st : Station) : ScriptLine (activation st) := by
  cases st
  · exact .stepI
  · exact .stepR

theorem decoded_eq_ok {o : Option Instr} {i : Instr} : decoded o = .ok i ↔ o = some i := by
  cases o <;> simp [decoded]

/-- A word in the script's place that is an instruction is a line of a script. -/
theorem scriptLine_of_decode {w : FetchWord} {i : Instr} (hw : w.fmt = .script) (h : decode w = .ok i) : ScriptLine i := by
  simp only [decode, hw] at h
  unfold decodeScript decodeQueueLine at h
  split at h
  · split at h <;> simp only [decoded_eq_ok, Option.bind_eq_some_iff, Option.map_eq_some_iff, Option.some.injEq, Except.ok.injEq,
      reduceCtorEq, Prod.exists] at h
    case h_1 => exact h ▸ .reset
    case h_2 => exact h ▸ .cfg _ _
    case h_3 =>
      obtain ⟨name, -, v, -, rfl⟩ := h
      exact .param name v
    case h_4 =>
      obtain ⟨t, -, rfl⟩ := h
      exact .clock t
    case h_5 =>
      obtain ⟨d, -, rfl⟩ := h
      exact .tick d
    case h_6 => exact h ▸ .stepI
    case h_7 => exact h ▸ .stepR
    case h_8 =>
      obtain ⟨count, -, -, lines, -, rfl⟩ := h
      exact .loop count lines
    case h_9 =>
      obtain ⟨q, -, rfl⟩ := h
      exact .push q _
    case h_10 =>
      obtain ⟨q, -, rfl⟩ := h
      exact .pop q
    case h_11 =>
      obtain ⟨p, -, rfl⟩ := h
      exact .expect p
  · cases h

/-- From `s` to `t` both stations are as they were, but for the times of the deadline. -/
def KeepsStations (s t : State) : Prop :=
  t.ini.state = s.ini.state ∧ t.ini.link = s.ini.link ∧ t.ini.deadline.armed = s.ini.deadline.armed ∧ t.res = s.res ∧
    t.par.n = s.par.n

/-- Both stations of `t` are at their reset values. -/
def ResetsStations (t : State) : Prop := t.ini = Initiator.reset t.par.n ∧ t.res = Responder.reset t.par.n

theorem setParam_stations (name : ParamName) (v : Nat) (s : State) :
    ResetsStations (setParam name v s) ∨ KeepsStations s (setParam name v s) := by
  cases name with
  | n =>
    by_cases hv : v = s.par.n
    · rw [hv, setParam_n_same]
      exact .inr ⟨rfl, rfl, rfl, rfl, rfl⟩
    · rw [setParam_n_of_ne v s hv]
      exact .inl ⟨rfl, rfl⟩
  | c | replyTimeoutMs | clockW => exact .inr ⟨rfl, rfl, rfl, rfl, rfl⟩

/-- A line of a script is an activation, or it resets both stations, or it leaves them as they are. -/
theorem scriptLine_stations {i : Instr} {s t : State} (hi : ScriptLine i) (h : exec i s = .next t) :
    initiatorStep s = .next t ∨ responderStep s = .next t ∨ ResetsStations t ∨ KeepsStations s t := by
  cases hi with
  | stepI => exact .inl h
  | stepR => exact .inr (.inl h)
  | reset =>
    obtain rfl := Host.Outcome.next.inj h
    exact .inr (.inr (.inl ⟨rfl, rfl⟩))
  | param name v =>
    by_cases ha : AcceptsParam name v s
    · obtain rfl := Host.Outcome.next.inj ((exec_scriptParam_of_accepts ha).symm.trans h)
      exact .inr (.inr (setParam_stations name v s))
    · cases (exec_scriptParam_of_not_accepts ha).symm.trans h
  | cfg | clock | tick | expect =>
    obtain rfl := Host.Outcome.next.inj h
    exact .inr (.inr (.inr ⟨rfl, rfl, rfl, rfl, rfl⟩))
  | loop count lines =>
    obtain ⟨-, rfl⟩ := scriptLoop_next h
    exact .inr (.inr (.inr ⟨rfl, rfl, rfl, rfl, rfl⟩))
  | push q bs =>
    obtain ⟨-, rfl⟩ := externalWrite_next h
    exact .inr (.inr (.inr (by simp [KeepsStations])))
  | pop q =>
    obtain ⟨b, rest, -, rfl⟩ := externalRead_next h
    exact .inr (.inr (.inr (by simp [KeepsStations])))

theorem mem_of_mem_repeatLines {w : FetchWord} {count : Nat} {body : List FetchWord} (h : w ∈ repeatLines count body) :
    w ∈ body := by
  induction count with
  | zero => cases h
  | succ k ih => exact (List.mem_append.1 h).elim id ih

/-- A line of a script adds no word to the script that did not stand in it. -/
theorem scriptLine_prog {i : Instr} {s t : State} (hi : ScriptLine i) (h : exec i s = .next t) : ∀ w ∈ t.prog, w ∈ s.prog := by
  intro w hw
  cases hi with
  | stepI =>
    obtain ⟨ini, qa, qb, host, rfl, -⟩ := initiatorActs_step h
    exact hw
  | stepR =>
    obtain ⟨res, qa, qb, host, rfl, -⟩ := responderActs_step h
    exact hw
  | param name v =>
    by_cases ha : AcceptsParam name v s
    · obtain rfl := Host.Outcome.next.inj ((exec_scriptParam_of_accepts ha).symm.trans h)
      cases name <;> exact hw
    · cases (exec_scriptParam_of_not_accepts ha).symm.trans h
  | reset | cfg | clock | tick | expect =>
    obtain rfl := Host.Outcome.next.inj h
    exact hw
  | loop count lines =>
    obtain ⟨-, rfl⟩ := scriptLoop_next h
    rcases List.mem_append.1 hw with hbody | hrest
    · exact List.mem_of_mem_take (mem_of_mem_repeatLines hbody)
    · exact List.mem_of_mem_drop hrest
  | push q bs =>
    obtain ⟨-, rfl⟩ := externalWrite_next h
    simpa using hw
  | pop q =>
    obtain ⟨b, rest, -, rfl⟩ := externalRead_next h
    simpa using hw

/-! ## Good -/

theorem good_iff (s : State) : Good s ↔ Sized s ∧ s.ini.Consistent s.par.n ∧ s.res.Consistent s.par.n := by
  simp only [Good, Initiator.Consistent, Responder.Consistent]
  tauto

theorem Sized.one_le_n {s : State} (h : Sized s) : 1 ≤ s.par.n := by
  obtain ⟨hn, -⟩ := h
  exact hn

theorem Good.scriptLine {i : Instr} {s t : State} (h : Good s) (hi : ScriptLine i) (ht : exec i s = .next t) : Good t := by
  obtain ⟨hsized, hini, hres⟩ := (good_iff s).1 h
  refine (good_iff t).2 ⟨hsized.exec ht, ?_⟩
  rcases scriptLine_stations hi ht with hstep | hstep | ⟨hri, hrr⟩ | ⟨hstate, hlink, harmed, hr, hn⟩
  · have hini' := initiatorStep_consistent hini hsized.one_le_n hstep
    obtain ⟨ini, qa, qb, host, rfl, -⟩ := initiatorActs_step hstep
    exact ⟨hini', hres⟩
  · have hres' := responderStep_consistent hres hsized.one_le_n hstep
    obtain ⟨res, qa, qb, host, rfl, -⟩ := responderActs_step hstep
    exact ⟨hini, hres'⟩
  · rw [hri, hrr]
    exact ⟨Initiator.consistent_reset _, Responder.consistent_reset _⟩
  · rw [hn, hr]
    exact ⟨hini.congr hstate hlink harmed, hres⟩

/-- Settles O58: the word a step takes off the script is a script line, as an activation is, and script lines keep `Good` and the
script's form. -/
theorem stepKeepsTheInvariants : Obligations.StepKeepsTheInvariants := by
  intro s t h honly ht
  rcases step_cases ht with ⟨w, rest, i, hp, hw, hi⟩ | ⟨w, rest, hp, hwire, -⟩ | ⟨hp, hi⟩
  · have hform : w.fmt = .script ∧ ∀ v ∈ rest, v.fmt = .script := by simpa [OnlyScriptLines, hp] using honly
    obtain ⟨hfmt, hrest⟩ := hform
    have hline := scriptLine_of_decode hfmt hw
    exact ⟨Good.scriptLine (s := { s with prog := rest }) h hline hi, fun v hv => hrest v (scriptLine_prog hline hi v hv)⟩
  · have hfmt : w.fmt = .script := honly w (by simp [hp])
    rw [hfmt] at hwire
    cases hwire
  · have hline := scriptLine_activation s.turn
    refine ⟨Good.scriptLine (s := { s.freeTick with turn := s.turn.peer }) ?_ hline hi, fun v hv => ?_⟩
    · obtain ⟨hsized, hini, hres⟩ := (good_iff s).1 h
      exact (good_iff _).2 ⟨hsized.freeTick, hini, hres⟩
    · exact honly v (scriptLine_prog hline hi v hv)

/-! ## The state after reset -/

theorem sized_reset : Sized State.reset :=
  ⟨by decide, by decide, by decide, Memory.wf_reset, by decide, Link.sized_reset _, Link.sized_reset _⟩

/-- Settles O3: the sizes are the defaults', both stations are at their reset values, and there is no script. -/
theorem resetStateIsGood : Obligations.ResetStateIsGood :=
  ⟨(good_iff _).2 ⟨sized_reset, Initiator.consistent_reset _, Responder.consistent_reset _⟩, fun _ hw => nomatch hw⟩

/-- Settles O2, register by register: each value is the one `State.reset` writes out. -/
theorem resetStateValues : Obligations.ResetStateValues := by
  refine ⟨rfl, rfl, fun st => ?_, rfl, rfl, rfl, rfl, rfl, rfl, rfl⟩
  cases st
  · exact ⟨rfl, rfl, rfl, rfl⟩
  · exact ⟨rfl, rfl, rfl, rfl⟩

/-- Settles O39: the three instructions assign the contexts `txInit`, `rxInit` and `rxOpen`, whose values are written out in the
statement, and tell the host nothing. -/
theorem contextsAreCreatedAtTheirValues : Obligations.ContextsAreCreatedAtTheirValues := by
  intro s st
  refine ⟨fun crc => ?_, ?_, ?_⟩
  · exact ⟨.nothing, none, rfl⟩
  · exact ⟨.nothing, none, rfl⟩
  · exact ⟨.nothing, none, rfl⟩

end Sys2Proof.Machine
end

section
/-! PROOFS. The configuration inputs (R45): the codec calls and every activation but Prepare go on in the same way whatever inputs
are driven (R78, R191, R309). -/

namespace Sys2Proof.Machine

/-! ## Other inputs driven -/

/-- The state with other configuration inputs driven. -/
def State.withCfg (s : State) (c : CfgInputs) : State := { s with cfg := c }

/-- The outcome with other configuration inputs driven in the next state. -/
def outcomeWithCfg (c : CfgInputs) (o : Out) : Out := andThen o fun t => .next (t.withCfg c)

section
variable (s : State) (c : CfgInputs)

@[simp] theorem outcomeWithCfg_next : outcomeWithCfg c (.next s) = .next (s.withCfg c) := rfl
@[simp] theorem outcomeWithCfg_fault (f : Fault) : outcomeWithCfg c (.fault f) = .fault f := rfl

@[simp] theorem State.withCfg_par : (s.withCfg c).par = s.par := rfl
@[simp] theorem State.withCfg_ini : (s.withCfg c).ini = s.ini := rfl
@[simp] theorem State.withCfg_res : (s.withCfg c).res = s.res := rfl
@[simp] theorem State.withCfg_rx (st : Station) : (s.withCfg c).rx st = s.rx st := by cases st <;> rfl
@[simp] theorem State.withCfg_tx (st : Station) : (s.withCfg c).tx st = s.tx st := by cases st <;> rfl
@[simp] theorem State.withCfg_txPacket (st : Station) : (s.withCfg c).txPacket st = s.txPacket st := by cases st <;> rfl
@[simp] theorem State.withCfg_queue (q : Queue) : (s.withCfg c).queue q = s.queue q := by cases q <;> rfl
@[simp] theorem State.withCfg_report (r : Ret) (l : Option Condition) :
    (s.withCfg c).report r l = (s.report r l).withCfg c := rfl
@[simp] theorem State.withCfg_quiet : (s.withCfg c).quiet = s.quiet.withCfg c := rfl
@[simp] theorem State.withCfg_setRx (st : Station) (x : RxContext) :
    (s.withCfg c).setRx st x = (s.setRx st x).withCfg c := by cases st <;> rfl
@[simp] theorem State.withCfg_setResult (st : Station) (x : ResultBuffer) :
    (s.withCfg c).setResult st x = (s.setResult st x).withCfg c := by cases st <;> rfl
@[simp] theorem State.withCfg_qDrop (q : Queue) : (s.withCfg c).qDrop q = (s.qDrop q).withCfg c := by cases q <;> rfl
@[simp] theorem State.withCfg_route (st : Station) (d : Byte) :
    (s.withCfg c).route st d = (s.route st d).withCfg c := by simp [State.route]
@[simp] theorem State.withCfg_emit (st : Station) (b : Byte) (tx : TxContext) :
    (s.withCfg c).emit st b tx = (s.emit st b tx).withCfg c := by cases st <;> rfl

@[simp] theorem queueEmpty_withCfg (q : Queue) : queueEmpty (s.withCfg c) q = queueEmpty s q := by cases q <;> rfl
@[simp] theorem isExpired_withCfg (dl : Deadline) : isExpired (s.withCfg c) dl = isExpired s dl := rfl

/-! ## The codec calls -/

theorem validateFrame_withCfg (st : Station) : validateFrame st (s.withCfg c) = (validateFrame st s).withCfg c := by
  simp only [validateFrame, State.withCfg_par, State.withCfg_rx]
  cases validationLabel s.par.n (s.rx st) st.address with
  | some label => rfl
  | none => cases (s.rx st).valid <;> simp

theorem consume_withCfg (st : Station) (b : Byte) : consume st b (s.withCfg c) = (consume st b s).withCfg c := by
  simp only [consume, State.withCfg_rx]
  cases classify (s.rx st) b <;> simp [consumeAs, validateFrame_withCfg]

@[simp] theorem decodeStep_withCfg (st : Station) : decodeStep st (s.withCfg c) = (decodeStep st s).withCfg c := by
  simp only [decodeStep, State.withCfg_rx, State.withCfg_queue]
  cases (s.rx st).assembled with
  | true => rfl
  | false =>
    cases s.queue st.inQueue with
    | nil => rfl
    | cons b rest => simp [consume_withCfg]

theorem selectEncode_withCfg (st : Station) : selectEncode st (s.withCfg c) = selectEncode st s := by
  cases st <;> rfl

theorem sendLogical_withCfg (st : Station) (b : Byte) :
    sendLogical st b (s.withCfg c) = (sendLogical st b s).withCfg c := by
  cases hb : needsStuffing b <;> simp [sendLogical, hb]

theorem sendStage_withCfg (st : Station) : sendStage st (s.withCfg c) = outcomeWithCfg c (sendStage st s) := by
  simp only [sendStage, State.withCfg_tx, State.withCfg_txPacket, sendLogical_withCfg]
  cases logicalByte (s.tx st) (s.txPacket st) <;> rfl

theorem encodeStep_withCfg (st : Station) : encodeStep st (s.withCfg c) = outcomeWithCfg c (encodeStep st s) := by
  simp only [encodeStep, selectEncode_withCfg]
  cases selectEncode st s with
  | done | backpressure => rfl
  | escape2 | startFlag | endFlag => simp [sendEscape2, sendFlag]
  | address | control | payload | fcsHigh | fcsLow => exact sendStage_withCfg s c st

/-! ## The activations -/

theorem selectInitiator_withCfg : selectInitiator (s.withCfg c) = selectInitiator s := by
  simp [selectInitiator]

theorem selectInitiator_eq_prepare (h : selectInitiator s = .prepare) : s.ini.state = .prepare := by
  unfold selectInitiator at h
  cases hs : s.ini.state with
  | prepare => rfl
  | awaitReply =>
    simp only [hs] at h
    split_ifs at h
  | transmit | receive | process => simp [hs] at h

theorem initiatorTransmit_withCfg : initiatorTransmit (s.withCfg c) = outcomeWithCfg c (initiatorTransmit s) := by
  simp only [initiatorTransmit, encodeStep_withCfg]
  cases encodeStep .initiator s with
  | next e =>
    by_cases hdone : e.ini.link.tx.stage = .done
    · simp only [outcomeWithCfg_next, andThen, State.withCfg_ini, hdone, if_true]
      rfl
    · simp [andThen, hdone]
  | fault => rfl
  | refused => rfl

theorem initiatorReceive_withCfg : initiatorReceive (s.withCfg c) = (initiatorReceive s).withCfg c := by
  simp only [initiatorReceive, decodeStep_withCfg, State.withCfg_ini]
  split_ifs <;> rfl

/-- Of the initiator's arms only that of Prepare reads the inputs (R191). -/
theorem initiatorStep_withCfg (h : s.ini.state ≠ .prepare) :
    initiatorStep (s.withCfg c) = outcomeWithCfg c (initiatorStep s) := by
  simp only [initiatorStep, selectInitiator_withCfg]
  cases harm : selectInitiator s with
  | prepare => exact absurd (selectInitiator_eq_prepare s harm) h
  | transmit => exact initiatorTransmit_withCfg s c
  | receive => simp [initiatorReceive_withCfg]
  | awaitIdle => simp
  | awaitStart =>
    simp only [initiatorAwaitStart, decodeStep_withCfg]
    rfl
  | awaitTimeout =>
    simp only [initiatorAwaitTimeout, decodeStep_withCfg]
    rfl
  | process => rfl

theorem selectResponder_withCfg : selectResponder (s.withCfg c) = selectResponder s := by
  simp [selectResponder]

theorem responderReplySend_withCfg : responderReplySend (s.withCfg c) = outcomeWithCfg c (responderReplySend s) := by
  simp only [responderReplySend, encodeStep_withCfg]
  cases encodeStep .responder s with
  | next e =>
    by_cases hdone : e.res.link.tx.stage = .done
    · simp only [outcomeWithCfg_next, andThen, State.withCfg_res, hdone, if_true]
      rfl
    · simp [andThen, hdone]
  | fault => rfl
  | refused => rfl

theorem responderWaitCommand_withCfg : responderWaitCommand (s.withCfg c) = (responderWaitCommand s).withCfg c := by
  simp only [responderWaitCommand, decodeStep_withCfg, State.withCfg_res]
  split_ifs <;> rfl

theorem responderReceive_withCfg : responderReceive (s.withCfg c) = (responderReceive s).withCfg c := by
  simp only [responderReceive, decodeStep_withCfg, State.withCfg_res]
  split_ifs <;> rfl

theorem responderStep_withCfg : responderStep (s.withCfg c) = outcomeWithCfg c (responderStep s) := by
  simp only [responderStep, selectResponder_withCfg]
  cases selectResponder s with
  | waitCommand => simp [responderWaitCommand_withCfg]
  | receive => simp [responderReceive_withCfg]
  | process => rfl
  | replyPoll => simp [responderReplyPoll]
  | replyPreempt =>
    simp only [responderReplyPreempt, decodeStep_withCfg]
    rfl
  | replySend => exact responderReplySend_withCfg s c

end

/-- Settles O54: an activation of either station, but for Prepare, commutes with driving other configuration inputs. -/
theorem configurationIsSampledInPrepareOnly : Obligations.ConfigurationIsSampledInPrepareOnly := by
  intro s t c
  constructor
  · intro hs (h : initiatorStep s = .next t)
    exact (initiatorStep_withCfg s c hs).trans (congrArg (outcomeWithCfg c) h)
  · intro (h : responderStep s = .next t)
    exact (responderStep_withCfg s c).trans (congrArg (outcomeWithCfg c) h)

end Sys2Proof.Machine
end

section
/-! PROOFS. The memory seen from outside the block: the reference schedule (R73), the check bytes (R64, R133), the queue operations
of the environment (R234 to R236), and a field's row at its position (R168). -/

namespace Sys2Proof.Machine

/-! ## The reference schedule -/

/-- With no script a step is the activation of the station in turn, after the clock's free advance. -/
theorem step_of_no_script {s : State} (hp : s.prog = []) :
    step s = exec (activation s.turn) { s.freeTick with turn := s.turn.peer } := by
  simp only [step, hp]

/-- Settles O5, for each of the two turns. -/
theorem freeRunAlternatesTheStations : Obligations.FreeRunAlternatesTheStations := by
  refine ⟨rfl, fun s hp => ⟨fun hturn => ?_, fun hturn => ?_⟩⟩
  · rw [step_of_no_script hp, hturn]
    rfl
  · rw [step_of_no_script hp, hturn]
    rfl

/-! ## The check bytes -/

/-- Settles O12: the CRC is that of address, control and payload in a row, and `fcsFirst` is its low-order byte. -/
theorem fcsIsLowOrderByteFirst : Obligations.FcsIsLowOrderByteFirst := by
  intro s a c p
  rfl

/-! ## The queues from outside -/

theorem externalWrite_of_room {q : Queue} {bs : List Byte} {s : State}
    (h : (s.queue q).length + bs.length ≤ s.capacity q) :
    externalWrite q bs s = .next (s.setQueue q (s.queue q ++ bs)).quiet := if_pos h

theorem externalWrite_of_no_room {q : Queue} {bs : List Byte} {s : State}
    (h : s.capacity q < (s.queue q).length + bs.length) : externalWrite q bs s = .refused .queueFull :=
  if_neg (Nat.not_le.2 h)

theorem externalRead_of_cons {q : Queue} {b : Byte} {rest : List Byte} {s : State} (h : s.queue q = b :: rest) :
    externalRead q s = .next ((s.setQueue q rest).report (.byte b) none) := by simp only [externalRead, h]

theorem externalRead_of_nil {q : Queue} {s : State} (h : s.queue q = []) : externalRead q s = .refused .queueEmpty := by
  simp only [externalRead, h]

/-- Settles O14: WriteByte and PUSH are `externalWrite`, ReadByte and POP are `externalRead`, each with its two cases. -/
theorem queueOperationsFromOutside : Obligations.QueueOperationsFromOutside := by
  intro s q
  refine ⟨fun b h => ?_, fun b h => ?_, fun bs h => ?_, fun bs h => ?_, fun b rest h => ?_, fun h => ?_, ?_⟩
  · exact ⟨_, _, externalWrite_of_room (bs := [b]) h⟩
  · exact externalWrite_of_no_room (bs := [b]) h
  · exact ⟨_, _, externalWrite_of_room h⟩
  · exact externalWrite_of_no_room h
  · exact ⟨externalRead_of_cons h, externalRead_of_cons h⟩
  · exact ⟨externalRead_of_nil h, externalRead_of_nil h⟩
  · exact ⟨_, _, rfl⟩

/-! ## A field's row -/

/-- A position's row tells whether the counter stands where the test `here` says. -/
theorem positionByte_tells {here : Bool} {stands : Prop} (h : here = true ↔ stands) (st : Station) (d : Byte) (s : State) :
    ∃ told : Bool, (told = true ↔ stands) ∧ positionByte here st d s = .next ((s.route st d).report (.bool told) none) :=
  ⟨here, h, rfl⟩

/-- At position 0 an address row tells whether the address is the station's own, and nothing elsewhere. -/
theorem addressByte_tells (st : Station) (a : Byte) (s : State) :
    ((s.rx st).pos = 0 →
        addressByte st a s = .next ((s.route st a).report (.bool (decide (a = st.address))) none)) ∧
      ((s.rx st).pos ≠ 0 → addressByte st a s = .next ((s.route st a).report .nothing none)) := by
  constructor
  · intro h
    simp [addressByte, routeTold, h, beq_eq_decide]
  · intro h
    simp [addressByte, routeTold, h]

/-- At position 1 a control row tells the command the byte stands for, and nothing elsewhere. -/
theorem controlByte_tells (st : Station) (b : Byte) (s : State) :
    ((s.rx st).pos = 1 → controlByte st b s = .next ((s.route st b).report (.command (commandOf b)) none)) ∧
      ((s.rx st).pos ≠ 1 → controlByte st b s = .next ((s.route st b).report .nothing none)) := by
  constructor
  · intro h
    simp [controlByte, routeTold, h]
  · intro h
    simp [controlByte, routeTold, h]

/-- Settles O27: each row is `positionByte`, `addressByte` or `controlByte`, which route the byte and tell of it. -/
theorem fieldRowsRouteAtTheirPosition : Obligations.FieldRowsRouteAtTheirPosition := by
  intro s st d
  refine ⟨?_, ?_, ?_, ?_, ?_, ?_, ?_, ?_, ?_, ?_⟩
  · exact positionByte_tells beq_iff_eq st d s
  · exact positionByte_tells beq_iff_eq st d s
  · exact positionByte_tells (by simp) st d s
  · exact positionByte_tells beq_iff_eq st d s
  · exact positionByte_tells beq_iff_eq st d s
  · exact positionByte_tells decide_eq_true_iff st d s
  · exact addressByte_tells st d s
  · exact controlByte_tells st d s
  · rintro rfl
    exact ⟨addressByte_tells st _ s, controlByte_tells st _ s⟩
  · rintro rfl
    exact ⟨addressByte_tells st _ s, controlByte_tells st _ s⟩

end Sys2Proof.Machine
end

section
/-! PROOFS. The decoder, place by place (R93 to R105): what it reads from the words of each place, and that it gives every
well-formed instruction back from its own word. -/

namespace Sys2Proof.Machine

/-! ## Bytes on the wire and field bytes -/

theorem decode_wireByte (st : Station) (b : Byte) : decode ⟨.wireByte, st, [b]⟩ =
    .ok (if b = Config.escape then .escape st else if b = Config.flag then .flag st else .data st b) := by
  simp only [decode, decodeWireByte]
  split_ifs <;> rfl

theorem decode_wirePair (st : Station) (x : Byte) : decode ⟨.wirePair, st, [Config.escape, x]⟩ =
    .ok (if x = Config.escapedFlag then .escFlag st else if x = Config.escapedEscape then .escEscape st
      else .escOther st x) := by
  simp only [decode, decodeWirePair, if_true]
  split_ifs <;> rfl

theorem decode_wirePair_of_ne (st : Station) {e : Byte} (x : Byte) (he : e ≠ Config.escape) :
    decode ⟨.wirePair, st, [e, x]⟩ = .error .notAnEscapePair := if_neg he

theorem decode_addressByte (st : Station) (a : Byte) : decode ⟨.addressByte, st, [a]⟩ =
    .ok (if a = Config.initiatorAddr then .addrInitiator st else if a = Config.responderAddr then .addrResponder st
      else .addrOther st a) := by
  simp only [decode, decodeAddressByte]
  split_ifs <;> rfl

theorem decode_controlByte (st : Station) (c : Byte) : decode ⟨.controlByte, st, [c]⟩ =
    .ok (if c = Config.cmdComplement then .cmdComplement st else if c = Config.cmdReverse then .cmdReverse st
      else .cmdReserved st c) := by
  simp only [decode, decodeControlByte]
  split_ifs <;> rfl

/-! ## Whole frames -/

/-- Data bytes are a frame where a payload stands before the two check bytes and these are those of the content (R90, R99). -/
theorem decodeFrameData_eq (st : Station) (a c f1 f2 : Byte) (p : List Byte) :
    decodeFrameData st (a :: c :: (p ++ [f1, f2])) =
      if p = [] then .error .wrongLength
      else if [f1, f2] = [fcsFirst (packetCrc a c p), fcsSecond (packetCrc a c p)] then .ok (.frame st a c p)
      else .error .badFcs := by
  have hlen : (p ++ [f1, f2]).length = p.length + 2 := by simp
  have hshort : p.length + 2 < 3 ↔ p = [] := by
    rw [← List.length_eq_zero_iff]
    omega
  simp only [decodeFrameData, hlen, hshort, Nat.add_sub_cancel, List.take_left, List.drop_left]

/-- The wire bytes of a frame are read as its data bytes are: the stuffing comes off between the two flags. -/
theorem decode_framed (st : Station) (ds : List Byte) :
    decode ⟨.frame, st, Config.flag :: (stuff ds ++ [Config.flag])⟩ = decodeFrameData st ds := by
  simp only [decode, decodeFrame, if_true, unstuffToFlag_stuff]

theorem decode_frameBytes (st : Station) (a c : Byte) {p : List Byte} (hp : p ≠ []) :
    decode ⟨.frame, st, frameBytes a c p⟩ = .ok (.frame st a c p) := by
  rw [frameBytes, decode_framed, frameData, decodeFrameData_eq, if_neg hp, if_pos rfl]

/-- With other check bytes they are no instruction. -/
theorem decode_framed_of_wrong_fcs (st : Station) {a c f1 f2 : Byte} {p : List Byte}
    (hf : [f1, f2] ≠ [fcsFirst (packetCrc a c p), fcsSecond (packetCrc a c p)]) :
    ∃ e, decode ⟨.frame, st, Config.flag :: (stuff (a :: c :: (p ++ [f1, f2])) ++ [Config.flag])⟩ = .error e := by
  rw [decode_framed, decodeFrameData_eq, if_neg hf]
  by_cases hp : p = []
  · exact ⟨_, if_pos hp⟩
  · exact ⟨_, if_neg hp⟩

/-! ## Number operands -/

@[simp] theorem decodeOnlyNat_encodeNat (v : Nat) : decodeOnlyNat (encodeNat v) = some v := by simp [decodeOnlyNat]

@[simp] theorem decodeDeadline_of_fields (armed : Bool) (tStart duration : Nat) :
    decodeDeadline (encodeBool armed :: (encodeNat tStart ++ encodeNat duration)) = some ⟨armed, tStart, duration⟩ := by
  simp [decodeDeadline]

/-! ## Every instruction -/

/-- Settles O7, row by row: a number has its place's own arm in the decoder, a value the table excludes from a row is not that of
another row, and operands, frames and check words are read back by their own lemmas. -/
theorem decodeOfEncodeIsTheInstruction : Obligations.DecodeOfEncodeIsTheInstruction := by
  intro i hi
  cases i with
  | data st d =>
    obtain ⟨hflag, hescape⟩ : d ≠ Config.flag ∧ d ≠ Config.escape := by simpa [Instr.wellFormed] using hi
    exact (decode_wireByte st d).trans (by rw [if_neg hescape, if_neg hflag])
  | escOther st x =>
    obtain ⟨hflag, hescape⟩ : x ≠ Config.escapedFlag ∧ x ≠ Config.escapedEscape := by simpa [Instr.wellFormed] using hi
    exact (decode_wirePair st x).trans (by rw [if_neg hflag, if_neg hescape])
  | addrOther st a =>
    obtain ⟨hini, hres⟩ : a ≠ Config.initiatorAddr ∧ a ≠ Config.responderAddr := by simpa [Instr.wellFormed] using hi
    exact (decode_addressByte st a).trans (by rw [if_neg hini, if_neg hres])
  | cmdReserved st c =>
    obtain ⟨hcompl, hrev⟩ : c ≠ Config.cmdComplement ∧ c ≠ Config.cmdReverse := by simpa [Instr.wellFormed] using hi
    exact (decode_controlByte st c).trans (by rw [if_neg hcompl, if_neg hrev])
  | frame st a c p => exact decode_frameBytes st a c (by simpa [Instr.wellFormed] using hi)
  | txInit st crc => exact congrArg (fun w => Except.ok (Instr.txInit st w)) (fcsSecond_append_fcsFirst crc)
  | qIsFull q | qIsEmpty q | qWriteByte q | qReadByte q | qReset q | scriptPush q | scriptPop q => cases q <;> rfl
  | timerSetDeadline | timerIsExpired => simp [encode, wordOf, decode, decodeTimerOp, decoded]
  | scriptParam | scriptClock | scriptTick | scriptLoop | scriptExpect =>
    simp [encode, wordOf, decode, decodeScript, decoded]
  | _ => rfl

/-- Settles O6: the readings above with the spec's numbers written in, and one arm of the decoder for each number of an
enumeration. -/
theorem specEncodingsDecode : Obligations.SpecEncodingsDecode := by
  refine ⟨decode_wireByte, fun _ _ => rfl, decode_wirePair, fun st _ x he => decode_wirePair_of_ne st x he, decode_addressByte,
    decode_controlByte, ?_, ?_, ?_, ?_, ?_, ?_, rfl, rfl, rfl, rfl⟩
  · intro st v i h
    fin_cases h <;> rfl
  · intro st v i h
    fin_cases h <;> rfl
  · intro st v i h
    fin_cases h <;> rfl
  · intro st v hv
    obtain ⟨k, hk⟩ := Nat.exists_eq_add_of_le' hv
    simp only [decode, decodeStage, hk]
  · intro st v hv
    obtain ⟨k, hk⟩ := Nat.exists_eq_add_of_le' hv
    simp only [decode, decodeIState, hk]
  · intro st v hv
    obtain ⟨k, hk⟩ := Nat.exists_eq_add_of_le' hv
    simp only [decode, decodeRState, hk]

end Sys2Proof.Machine
end

section
/-! PROOFS. The lines of a script that move no station: register dumps and EXPECT (R105, R118), the environment's lines (R45, R239),
and LOOP (R118). -/

namespace Sys2Proof.Machine

/-! ## Register dumps -/

theorem Stage.number_beq (x y : Stage) : (x.number == y.number) = decide (x = y) := by
  cases x <;> cases y <;> rfl

theorem IState.number_beq (x y : IState) : (x.number == y.number) = decide (x = y) := by
  cases x <;> cases y <;> rfl

theorem RState.number_beq (x y : RState) : (x.number == y.number) = decide (x = y) := by
  cases x <;> cases y <;> rfl

theorem dumpStage_number (st : Station) (x : Stage) (s : State) :
    dumpStage st x.number s = .next (s.report (.bool (decide ((s.tx st).stage = x))) none) := by
  rw [dumpStage, Stage.number_beq]

theorem dumpIState_number (x : IState) (s : State) :
    dumpIState x.number s = .next (s.report (.bool (decide (s.ini.state = x))) none) := by
  rw [dumpIState, IState.number_beq]

theorem dumpRState_number (x : RState) (s : State) :
    dumpRState x.number s = .next (s.report (.bool (decide (s.res.state = x))) none) := by
  rw [dumpRState, RState.number_beq]

/-- Settles O17: each row is the dump of its own number, and no two values of an enumeration have one number. -/
theorem observationsChangeNothing : Obligations.ObservationsChangeNothing := by
  intro s
  refine ⟨fun st i x h => ?_, fun i x h => ?_, fun i x h => ?_, fun _ => rfl⟩
  · rw [← dumpStage_number]
    fin_cases h <;> rfl
  · rw [← dumpIState_number]
    fin_cases h <;> rfl
  · rw [← dumpRState_number]
    fin_cases h <;> rfl

/-! ## The environment's lines -/

/-- Settles O18: the input is as long as `N` says whatever is driven, and the bytes driven where they are that many. -/
theorem environmentLinesSetInputsAndClock : Obligations.EnvironmentLinesSetInputsAndClock := by
  intro s
  refine ⟨fun cmd p => ?_, fun t => ⟨_, _, rfl⟩, fun d => ⟨_, _, rfl⟩⟩
  exact ⟨_, _, _, rfl, rfl, State.cfgPayload_length _,
    fun hp => State.cfgPayload_eq (State.quiet { s with cfg := ⟨cmd, p⟩ }) hp⟩

/-! ## LOOP -/

theorem repeatLines_eq_flatten (k : Nat) (body : List FetchWord) : repeatLines k body = (List.replicate k body).flatten := by
  induction k with
  | zero => rfl
  | succ k ih => rw [repeatLines, ih, List.replicate_succ, List.flatten_cons]

theorem scriptLoop_of_body {s : State} {body rest : List FetchWord} (k : Nat) (hp : s.prog = body ++ rest) :
    exec (.scriptLoop k body.length) s =
      .next { s with prog := (List.replicate k body).flatten ++ rest }.quiet := by
  have hlong : ¬s.prog.length < body.length := by simp [hp]
  show execScriptLoop k body.length s = _
  rw [execScriptLoop, if_neg hlong, repeatLines_eq_flatten, hp, List.take_left, List.drop_left]

/-- Settles O20: the lines enclosed are the first ones of the script left. -/
theorem loopRepeatsItsLines : Obligations.LoopRepeatsItsLines :=
  fun _ k => ⟨fun _ _ hp => ⟨_, _, scriptLoop_of_body k hp⟩, fun _ hshort => if_pos hshort⟩

end Sys2Proof.Machine
end

section
/-! PROOFS. Bytes on the wire: what a step makes of a fetch word (R118, R102), a byte and an escape pair at a receiver (R93, R100),
whole frames (R94, R107), and a frame with wrong check bytes (R172, R173). -/

namespace Sys2Proof.Machine

/-! ## A step on a fetch word -/

theorem step_of_ok {s : State} {w : FetchWord} {rest : List FetchWord} {i : Instr} (hp : s.prog = w :: rest)
    (hw : decode w = .ok i) (hi : i.wellFormed = true) : step s = exec i { s with prog := rest } := by
  simp only [step, hp, hw, hi, if_true]

theorem step_of_illFormed {s : State} {w : FetchWord} {rest : List FetchWord} {i : Instr} (hp : s.prog = w :: rest)
    (hw : decode w = .ok i) (hi : i.wellFormed = false) : step s = .refused .illFormed := by
  simp only [step, hp, hw, hi, Bool.false_eq_true, if_false]

theorem step_of_error {s : State} {w : FetchWord} {rest : List FetchWord} {e : DecodeError} (hp : s.prog = w :: rest)
    (hw : decode w = .error e) : step s = runRejected w e { s with prog := rest } := by
  simp only [step, hp, hw]

theorem runRejected_of_onWire {w : FetchWord} (e : DecodeError) (s : State) (hw : w.fmt.onWire = true) :
    runRejected w e s = .next (deliverAll w.st w.bytes s.quiet) := if_pos hw

theorem runRejected_of_not_onWire {w : FetchWord} (e : DecodeError) (s : State) (hw : w.fmt.onWire = false) :
    runRejected w e s = .refused (.undecodable e) := if_neg (Bool.eq_false_iff.1 hw)

/-- Settles O4: one case for each answer of the decoder. -/
theorem stepRunsTheDecodedInstruction : Obligations.StepRunsTheDecodedInstruction := by
  intro s w rest hp
  refine ⟨fun i hw hi => step_of_ok hp hw hi, fun i hw hi => step_of_illFormed hp hw hi, fun e hw hwire => ?_,
    fun e hw hwire => ?_⟩
  · rw [step_of_error hp hw, runRejected_of_onWire e _ hwire]
  · rw [step_of_error hp hw, runRejected_of_not_onWire e _ hwire]

/-! ## A byte, and an escape pair -/

/-- Settles O21: each row hands its byte to the receiver, which touches only what `deliver` does. -/
theorem wireByteRowsTakeTheirByte : Obligations.WireByteRowsTakeTheirByte := by
  intro s st b
  obtain ⟨rx, result, label, h⟩ := deliver_shape st b s
  exact ⟨rfl, rfl, rfl, rx, result, _, label, congrArg Host.Outcome.next h⟩

/-- ESCAPE and any byte after it, at an open receiver with no unescape pending, route that byte XOR 0x20 (R163, R164). -/
theorem deliverAll_escapePair {st : Station} {s : State} (x : Byte) (ha : (s.rx st).assembled = false)
    (hu : (s.rx st).unescPending = false) :
    deliverAll st [Config.escape, x] s =
      (s.setRx st (routeByte s.par.n (s.rx st) (x ^^^ Config.xorMask))).quiet := by
  have hescape : deliver st Config.escape s = (s.setRx st { s.rx st with unescPending := true }).quiet := by
    simp [deliver, ha, consume, classify, hu, consumeAs]
  have hclear : ∀ rx : RxContext, rx.assembled = false → rx.unescPending = false →
      { rx with assembled := false, unescPending := false } = rx := by
    rintro ⟨⟩ rfl rfl
    rfl
  rw [deliverAll, hescape]
  simp [deliverAll, deliver, ha, consume, classify, consumeAs, State.route, hclear _ ha hu, State.quiet]

theorem exec_escOther {st : Station} {s : State} (x : Byte) (ha : (s.rx st).assembled = false)
    (hu : (s.rx st).unescPending = false) :
    exec (.escOther st x) s = .next (s.setRx st (routeByte s.par.n (s.rx st) (x ^^^ Config.xorMask))).quiet :=
  congrArg Host.Outcome.next (deliverAll_escapePair x ha hu)

/-- Settles O28: the rows of the two pairs the transmitter makes hand over 0x5E and 0x5D, which are 0x7E and 0x7D XOR 0x20. -/
theorem escapePairIsOneDataByte : Obligations.EscapePairIsOneDataByte := fun _ _ ha hu =>
  ⟨⟨_, _, exec_escOther Config.escapedFlag ha hu⟩, ⟨_, _, exec_escOther Config.escapedEscape ha hu⟩,
    fun x => ⟨_, _, exec_escOther x ha hu⟩⟩

/-! ## Whole frames -/

theorem stuffByte_eq (b : Byte) :
    stuffByte b = if b = Config.flag ∨ b = Config.escape then [Config.escape, b ^^^ Config.xorMask] else [b] := by
  simp only [stuffByte, needsStuffing_iff]

theorem stuff_eq_flatMap (bs : List Byte) : stuff bs = bs.flatMap stuffByte := by
  induction bs with
  | nil => rfl
  | cons b bs ih => rw [stuff_cons, ih, List.flatMap_cons]

/-- Settles O59: the bytes between the flags are the data bytes, each stuffed by itself. -/
theorem onlyFlagAndEscapeAreStuffed : Obligations.OnlyFlagAndEscapeAreStuffed := by
  intro a c p crc data
  show Config.flag :: (stuff data ++ [Config.flag]) = _
  rw [stuff_eq_flatMap, funext stuffByte_eq]
  rfl

/-- Settles O33: a frame's row hands the frame's bytes to a receiver; REQUEST and REPLY are such rows with the contents R107 gives
them. -/
theorem framesTouchOnlyTheirReceiver : Obligations.FramesTouchOnlyTheirReceiver := by
  intro s
  refine ⟨fun st a c p => ?_, rfl, ⟨_, rfl⟩, fun reply h => ?_, ⟨_, rfl⟩⟩
  · obtain ⟨rx, result, ret, label, h⟩ := deliverAll_shape st (frameBytes a c p) s
    exact ⟨rx, result, ret, label, congrArg Host.Outcome.next h⟩
  · have hreply : cmdProcess s.res.link.result.control s.res.link.result.payload = reply :=
      Ret.bytes.inj (congrArg (fun t => t.host.ret) (Host.Outcome.next.inj h))
    rw [← hreply]
    rfl

/-! ## Any bytes on the wire -/

/-- The row of the table that hands a byte to a station's receiver. -/
def wireRow (st : Station) (b : Byte) : Instr :=
  if b = Config.flag then .flag st else if b = Config.escape then .escape st else .data st b

theorem exec_wireRow (st : Station) (b : Byte) (s : State) : exec (wireRow st b) s = .next (deliver st b s) := by
  unfold wireRow
  split_ifs with hflag hescape
  · rw [hflag]
    rfl
  · rw [hescape]
    rfl
  · rfl

/-- Bytes handed to a receiver are their rows run one after another. -/
theorem foldl_exec_wireRow (st : Station) (bs : List Byte) (s : State) :
    bs.foldl (fun o b => andThen o (exec (wireRow st b))) (.next s) = .next (deliverAll st bs s) := by
  induction bs generalizing s with
  | nil => rfl
  | cons b bs ih =>
    rw [List.foldl_cons, andThen, exec_wireRow]
    exact ih _

/-- A step on any bytes on the wire hands bytes to their receiver, and touches nothing else. -/
theorem step_onWire_shape {s : State} {w : FetchWord} {rest : List FetchWord} (hp : s.prog = w :: rest)
    (hwire : w.fmt.onWire = true) :
    ∃ rx result ret label,
      step s = .next (((State.setRx { s with prog := rest } w.st rx).setResult w.st result).report ret label) := by
  cases hw : decode w with
  | ok i =>
    obtain ⟨hi, bs, hexec⟩ := decode_onWire hwire hw
    obtain ⟨rx, result, ret, label, h⟩ := deliverAll_shape w.st bs { s with prog := rest }
    exact ⟨rx, result, ret, label, by rw [step_of_ok hp hw hi, hexec, h]⟩
  | error e =>
    rw [step_of_error hp hw]
    rcases runRejected_cases w e { s with prog := rest } with ⟨-, h⟩ | ⟨hno, -⟩
    · exact h
    · rw [hwire] at hno
      cases hno

/-! ## A frame with wrong check bytes -/

/-- The receive context after the data bytes of a frame and its closing flag, from `RxInit`. -/
def framedRx (n : Nat) (ds : List Byte) : RxContext :=
  { routeBytes n { rxInit n with started := true } ds with assembled := true }

theorem framedRx_started (n : Nat) (ds : List Byte) : (framedRx n ds).started = true := by
  obtain ⟨hstarted, -⟩ := routeBytes_flags n { rxInit n with started := true } ds
  exact hstarted

theorem framedRx_valid (n : Nat) (ds : List Byte) : (framedRx n ds).valid = false := by
  obtain ⟨-, -, hvalid, -⟩ := routeBytes_flags n { rxInit n with started := true } ds
  exact hvalid

theorem framedRx_pos (n : Nat) (ds : List Byte) : (framedRx n ds).pos = min ds.length (n + 5) := by
  have hpos := routeBytes_pos n { rxInit n with started := true } ds (Nat.zero_le _)
  rwa [show ({ rxInit n with started := true } : RxContext).pos = 0 from rfl, Nat.zero_add] at hpos

theorem framedRx_frame {n : Nat} (a c f1 f2 : Byte) {p : List Byte} (hp : p.length = n) :
    framedRx n (a :: c :: (p ++ [f1, f2])) =
      { rxInit n with
        started := true, assembled := true, packet := ⟨a, c, p⟩, pos := n + 4, fcsFirst := f1, fcsSecond := f2 } := by
  rw [framedRx, routeBytes_frame (rx := { rxInit n with started := true }) a c f1 f2 p rfl hp (rxInit_length n)]

/-- A frame with wrong check bytes fails one of the five requirements: it is too long or too short, or it fails the last. -/
theorem validationLabel_of_wrong_fcs {n : Nat} {a c f1 f2 : Byte} {p : List Byte} (expected : Byte)
    (hf : [f1, f2] ≠ [fcsFirst (packetCrc a c p), fcsSecond (packetCrc a c p)]) :
    ∃ label, validationLabel n (framedRx n (a :: c :: (p ++ [f1, f2]))) expected = some label := by
  refine Option.ne_none_iff_exists'.1 fun hnone => hf ?_
  obtain ⟨-, hpos, -, -, hfcs⟩ := validationLabel_eq_none.1 hnone
  have hp : p.length = n := by
    rw [framedRx_pos] at hpos
    simp only [List.length_cons, List.length_append, List.length_nil] at hpos
    omega
  rw [framedRx_frame a c f1 f2 hp] at hfcs
  simpa [fcsMatches] using hfcs

theorem knownCommand_iff (c : Byte) : knownCommand c = true ↔ c = Config.cmdComplement ∨ c = Config.cmdReverse := by
  simp [knownCommand]

theorem validationLabel_checksumMismatch {n : Nat} {a c f1 f2 : Byte} {p : List Byte} (hp : p.length = n)
    (hc : knownCommand c = true)
    (hf : [f1, f2] ≠ [fcsFirst (packetCrc a c p), fcsSecond (packetCrc a c p)]) :
    validationLabel n (framedRx n (a :: c :: (p ++ [f1, f2]))) a = some .checksumMismatch := by
  have hfcs : fcsMatches (framedRx n (a :: c :: (p ++ [f1, f2]))) = false := by
    rw [framedRx_frame a c f1 f2 hp, Bool.eq_false_iff]
    exact fun h => hf (by simpa [fcsMatches] using h)
  rw [framedRx_frame a c f1 f2 hp] at hfcs ⊢
  simp [validationLabel, hc, hfcs]

theorem validateFrame_of_label {st : Station} {s : State} {label : Condition}
    (h : validationLabel s.par.n (s.rx st) st.address = some label) :
    validateFrame st s = s.report .nothing (some label) := by
  simp only [validateFrame, h]

/-- A step on such a frame from `RxInit` closes the context and raises the label of the requirement that fails. -/
theorem step_of_wrong_fcs {s : State} {st : Station} {a c f1 f2 : Byte} {p : List Byte} {rest : List FetchWord}
    (hrx : s.rx st = rxInit s.par.n) (hf : [f1, f2] ≠ [fcsFirst (packetCrc a c p), fcsSecond (packetCrc a c p)])
    (hprog : s.prog = ⟨.frame, st, Config.flag :: (stuff (a :: c :: (p ++ [f1, f2])) ++ [Config.flag])⟩ :: rest) :
    ∃ label, validationLabel s.par.n (framedRx s.par.n (a :: c :: (p ++ [f1, f2]))) st.address = some label ∧
      step s = .next ((State.setRx { s with prog := rest } st (framedRx s.par.n (a :: c :: (p ++ [f1, f2])))).report
        .nothing (some label)) := by
  obtain ⟨e, hw⟩ := decode_framed_of_wrong_fcs st hf
  obtain ⟨label, hlabel⟩ := validationLabel_of_wrong_fcs (n := s.par.n) st.address hf
  have hrx' : (State.quiet { s with prog := rest }).rx st = rxInit s.par.n := by
    rw [State.quiet_rx, ← hrx]
    cases st <;> rfl
  obtain ⟨ret, l, hd⟩ := deliverAll_framed st (a :: c :: (p ++ [f1, f2])) (State.quiet { s with prog := rest }) hrx'
  refine ⟨label, hlabel, ?_⟩
  rw [step_of_error hprog hw, runRejected_of_onWire e _ rfl, hd, validateFrame_of_label (label := label)]
  · simp [State.quiet, framedRx]
  · simpa [framedRx] using hlabel

/-- Settles O60: bytes that are an instruction and bytes that are none are both handed to the receiver, the latter as their rows;
from `RxInit` a frame with wrong check bytes is no instruction and fails validation. -/
theorem wireBytesNeverTrap : Obligations.WireBytesNeverTrap := by
  constructor
  · intro s w rest hp hfmt now row
    have hwire : w.fmt.onWire = true := List.contains_iff_mem.2 hfmt
    refine ⟨step_onWire_shape hp hwire, fun e hw => ?_⟩
    rw [step_of_error hp hw, runRejected_of_onWire e _ hwire]
    exact (foldl_exec_wireRow w.st w.bytes now.quiet).symm
  · intro s st a c f1 f2 p rest hrx hf hprog
    obtain ⟨label, hlabel, hstep⟩ := step_of_wrong_fcs hrx hf hprog
    refine ⟨_, hstep, ?_, ?_, ?_, ?_, ?_, ?_⟩
    · simp
    · simp [framedRx_started]
    · simp [framedRx]
    · simp [framedRx_valid]
    · cases st <;> rfl
    · rintro rfl hc hp
      rw [validationLabel_checksumMismatch hp ((knownCommand_iff c).2 hc) hf] at hlabel
      exact hlabel.symm

end Sys2Proof.Machine
end

section
/-! PROOFS. An activation is the row its state selects (R106, R199, R219): the conditions the opcode table gives the arms, and what
a row that names an arm does. -/

namespace Sys2Proof.Machine

/-! ## The row of an arm -/

/-- A row does what an activation does, and is told whether its condition holds (log 11). -/
def RowRuns (s : State) (activation : Instr) (row : Instr × Prop) : Prop :=
  ∃ named : Bool, (named = true ↔ row.2) ∧
    (∀ t, exec activation s = .next t → exec row.1 s = .next (t.report (.bool named) t.host.label)) ∧
    (∀ f, exec activation s = .fault f → exec row.1 s = .fault f)

theorem rowRuns_of_tellArm {s : State} {activation i : Instr} {selected condition : Prop} [Decidable selected]
    (hexec : exec i s = tellArm (decide selected) (exec activation s)) (hsel : selected ↔ condition) :
    RowRuns s activation (i, condition) := by
  refine ⟨decide selected, decide_eq_true_iff.trans hsel, fun t ht => ?_, fun f hf => ?_⟩
  · rw [hexec, ht, tellArm_next]
  · rw [hexec, hf, tellArm_fault]

/-! ## The initiator -/

@[simp] theorem decodeStep_clock (st : Station) (s : State) : (decodeStep st s).clock = s.clock := by
  obtain ⟨bs, rx, result, label, hd, -⟩ := decodeStep_shape st s
  simp [hd]

@[simp] theorem isExpired_decodeStep (st : Station) (s : State) (dl : Deadline) :
    isExpired (decodeStep st s) dl = isExpired s dl := by
  simp [isExpired]

/-- After the activation's `DecodeStep` a frame has begun (R193). -/
def FrameBegun (s : State) : Prop :=
  (decodeStep .initiator s).ini.link.rx.started = true ∧ (decodeStep .initiator s).ini.link.rx.assembled = false

/-- The condition of an arm of `InitiatorStep` (R191 to R197). -/
def InitiatorArm.RowCondition (s : State) : InitiatorArm → Prop
  | .prepare => s.ini.state = .prepare
  | .transmit => s.ini.state = .transmit
  | .awaitStart => s.ini.state = .awaitReply ∧ FrameBegun s
  | .awaitTimeout => s.ini.state = .awaitReply ∧ ¬FrameBegun s ∧ isExpired s s.ini.deadline = true
  | .awaitIdle => s.ini.state = .awaitReply ∧ ¬FrameBegun s ∧ isExpired s s.ini.deadline = false
  | .receive => s.ini.state = .receive
  | .process => s.ini.state = .process

theorem selectInitiator_awaitReply {s : State} (h : s.ini.state = .awaitReply) :
    (FrameBegun s ∧ selectInitiator s = .awaitStart) ∨
      (¬FrameBegun s ∧ isExpired s s.ini.deadline = true ∧ selectInitiator s = .awaitTimeout) ∨
      (¬FrameBegun s ∧ isExpired s s.ini.deadline = false ∧ selectInitiator s = .awaitIdle) := by
  have hbegun : ((decodeStep .initiator s).ini.link.rx.started && !(decodeStep .initiator s).ini.link.rx.assembled) = true ↔
      FrameBegun s := by simp [FrameBegun]
  simp only [selectInitiator, h, decodeStep_ini_deadline, isExpired_decodeStep]
  split_ifs with hb hx
  · exact .inl ⟨hbegun.1 hb, rfl⟩
  · exact .inr (.inl ⟨mt hbegun.2 hb, hx, rfl⟩)
  · exact .inr (.inr ⟨mt hbegun.2 hb, Bool.eq_false_iff.2 hx, rfl⟩)

theorem selectInitiator_eq_iff (s : State) (arm : InitiatorArm) : selectInitiator s = arm ↔ arm.RowCondition s := by
  cases hs : s.ini.state with
  | awaitReply =>
    rcases selectInitiator_awaitReply hs with ⟨hb, hsel⟩ | ⟨hb, hx, hsel⟩ | ⟨hb, hx, hsel⟩
    · cases arm <;> simp [hsel, InitiatorArm.RowCondition, hs, hb]
    · cases arm <;> simp [hsel, InitiatorArm.RowCondition, hs, hb, hx]
    · cases arm <;> simp [hsel, InitiatorArm.RowCondition, hs, hb, hx]
  | prepare | transmit | receive | process =>
    cases arm <;> simp [selectInitiator, hs, InitiatorArm.RowCondition]

/-- The arms that have a row, which is all but `awaitIdle`, in the opcode table's order. -/
def initiatorArms : List InitiatorArm := [.prepare, .transmit, .awaitStart, .awaitTimeout, .receive, .process]

/-- The row of an arm; the idle one has none and is met by the activation itself (log 11). -/
def initiatorRow : InitiatorArm → Instr
  | .prepare => .initiatorPrepare
  | .transmit => .initiatorTransmit
  | .awaitStart => .initiatorAwaitStart
  | .awaitTimeout => .initiatorAwaitTimeout
  | .awaitIdle => .scriptStepI
  | .receive => .initiatorReceive
  | .process => .initiatorProcess

theorem mem_initiatorArms (arm : InitiatorArm) : arm ∈ initiatorArms ↔ arm ≠ .awaitIdle := by
  cases arm <;> decide

theorem exec_initiatorRow {arm : InitiatorArm} (h : arm ∈ initiatorArms) (s : State) :
    exec (initiatorRow arm) s = tellArm (decide (selectInitiator s = arm)) (exec .scriptStepI s) := by
  fin_cases h <;> rfl

/-! ## The responder -/

/-- The condition of an arm of `ResponderStep` (R211 to R218). -/
def ResponderArm.RowCondition (s : State) : ResponderArm → Prop
  | .waitCommand => s.res.state = .waitCommand
  | .receive => s.res.state = .receive
  | .process => s.res.state = .process
  | .replyPoll => s.res.state = .reply ∧ s.qa ≠ [] ∧ ¬(decodeStep .responder s).res.link.rx.started = true
  | .replyPreempt => s.res.state = .reply ∧ s.qa ≠ [] ∧ (decodeStep .responder s).res.link.rx.started = true
  | .replySend => s.res.state = .reply ∧ s.qa = []

theorem selectResponder_eq_iff (s : State) (arm : ResponderArm) : selectResponder s = arm ↔ arm.RowCondition s := by
  cases hs : s.res.state with
  | reply =>
    have hempty : queueEmpty s .qa = true ↔ s.qa = [] := List.isEmpty_iff
    simp only [selectResponder, hs, hempty]
    split_ifs with hq ho
    · cases arm <;> simp [ResponderArm.RowCondition, hs, hq]
    · cases arm <;> simp [ResponderArm.RowCondition, hs, hq, ho]
    · cases arm <;> simp [ResponderArm.RowCondition, hs, hq, ho]
  | waitCommand | receive | process => cases arm <;> simp [selectResponder, hs, ResponderArm.RowCondition]

/-- The arms, in the opcode table's order. -/
def responderArms : List ResponderArm := [.waitCommand, .receive, .process, .replyPoll, .replyPreempt, .replySend]

/-- The row of an arm. -/
def responderRow : ResponderArm → Instr
  | .waitCommand => .responderWaitCommand
  | .receive => .responderReceive
  | .process => .responderProcess
  | .replyPoll => .responderReplyPoll
  | .replyPreempt => .responderReplyPreempt
  | .replySend => .responderReplySend

theorem mem_responderArms (arm : ResponderArm) : arm ∈ responderArms := by
  cases arm <;> decide

theorem exec_responderRow (arm : ResponderArm) (s : State) :
    exec (responderRow arm) s = tellArm (decide (selectResponder s = arm)) (exec .scriptStepR s) := by
  cases arm <;> rfl

/-! ## The rows -/

/-- Settles O52: the rows are the arms with their conditions, and a condition holds exactly of the arm selected. -/
theorem activationRunsTheSelectedRow : Obligations.ActivationRunsTheSelectedRow := by
  intro s irx begun opened initiatorRows responderRows runs
  have hini : initiatorRows = initiatorArms.map fun arm => (initiatorRow arm, arm.RowCondition s) := rfl
  have hres : responderRows = responderArms.map fun arm => (responderRow arm, arm.RowCondition s) := rfl
  rw [hini, hres]
  simp only [List.forall_mem_map]
  refine ⟨fun arm harm => ?_, fun arm _ => ?_, fun arm _ other _ h h' => ?_, fun h => ?_, ?_⟩
  · exact rowRuns_of_tellArm (exec_initiatorRow harm s) (selectInitiator_eq_iff s arm)
  · exact rowRuns_of_tellArm (exec_responderRow arm s) (selectResponder_eq_iff s arm)
  · rw [← selectInitiator_eq_iff] at h h'
    rw [← h, h']
  · have hidle : selectInitiator s ≠ .awaitIdle := mt (selectInitiator_eq_iff s .awaitIdle).1 h
    exact ⟨_, List.mem_map_of_mem ((mem_initiatorArms _).2 hidle), (selectInitiator_eq_iff s _).1 rfl⟩
  · refine ⟨_, List.mem_map_of_mem (mem_responderArms _), (selectResponder_eq_iff s _).1 rfl, fun other _ h => ?_⟩
    rw [← selectResponder_eq_iff] at h
    rw [h]

end Sys2Proof.Machine
end

section
/-! PROOFS. The CRC engine (R130 to R133, R137): its shift loses nothing, so no input that differs in one byte has the same CRC. -/

namespace Sys2Proof.Machine

/-! ## The shift -/

/-- The bit shifted out comes back as bit 0, since the polynomial's bit 0 is set. -/
theorem getLsbD_zero_crcShift (reg : Word) : (crcShift reg).getLsbD 0 = reg.msb := by
  cases hm : reg.msb <;> simp [crcShift, hm, Config.crcPoly]

/-- A word is determined by the bit a left shift drops and the word it leaves. -/
theorem word_eq_of_msb_of_shiftLeft_one {a b : Word} (hm : a.msb = b.msb) (hs : a <<< 1 = b <<< 1) : a = b := by
  simp only [BitVec.msb_eq_decide, decide_eq_decide] at hm
  bv_omega

/-- One iteration of R131 loses nothing: bit 0 of its result tells which of its two branches was taken. -/
theorem crcShift_injective : Function.Injective crcShift := by
  intro a b h
  have hm : a.msb = b.msb := by rw [← getLsbD_zero_crcShift a, h, getLsbD_zero_crcShift b]
  refine word_eq_of_msb_of_shiftLeft_one hm ?_
  simp only [crcShift, hm] at h
  split at h
  · exact (BitVec.xor_left_inj _).1 h
  · exact h

/-! ## A byte -/

/-- The model's eight nested calls are the shift iterated eight times (R131). -/
theorem crcByte_eq_iterate (reg : Word) (b : Byte) : crcByte reg b = crcShift^[8] (reg ^^^ (b.setWidth 16 <<< 8)) := rfl

theorem crcByte_eq_crcByte_iff {reg reg' : Word} {b b' : Byte} :
    crcByte reg b = crcByte reg' b' ↔ reg ^^^ (b.setWidth 16 <<< 8) = reg' ^^^ (b'.setWidth 16 <<< 8) := by
  rw [crcByte_eq_iterate, crcByte_eq_iterate, (crcShift_injective.iterate 8).eq_iff]

theorem crcByte_left_injective (b : Byte) : Function.Injective (crcByte · b) := fun _ _ h =>
  (BitVec.xor_left_inj _).1 (crcByte_eq_crcByte_iff.1 h)

theorem crcByte_right_injective (reg : Word) : Function.Injective (crcByte reg) := by
  intro b b' h
  have hhigh : b.setWidth 16 <<< 8 = b'.setWidth 16 <<< 8 := (BitVec.xor_right_inj _).1 (crcByte_eq_crcByte_iff.1 h)
  bv_omega

theorem foldl_crcByte_injective (bytes : List Byte) : Function.Injective (bytes.foldl crcByte) := by
  induction bytes with
  | nil => exact Function.injective_id
  | cons b bytes ih => exact ih.comp (crcByte_left_injective b)

/-! ## The CRC -/

theorem crc16_eq_crc16_iff {bytes bytes' : List Byte} :
    crc16 bytes = crc16 bytes' ↔ bytes.foldl crcByte Config.crcInit = bytes'.foldl crcByte Config.crcInit :=
  BitVec.xor_left_inj _

/-- Settles O11: the bytes before give one register, the changed byte two different ones, and the bytes after keep them apart. -/
theorem crcDetectsOneChangedByte : Obligations.CrcDetectsOneChangedByte := by
  intro before after b b' hne hcrc
  rw [crc16_eq_crc16_iff, List.foldl_append, List.foldl_append, List.foldl_cons, List.foldl_cons] at hcrc
  exact hne (crcByte_right_injective _ (foldl_crcByte_injective after hcrc))

/-- R137's word, from the register after its first byte and after its second. -/
theorem crc16_one_two : crc16 [0x01#8, 0x02#8] = 0xF183#16 := by
  have hfirst : crcByte Config.crcInit 0x01#8 = 0xF1D1#16 := by decide
  have hsecond : crcByte 0xF1D1#16 0x02#8 = 0x0E7C#16 := by decide
  calc crc16 [0x01#8, 0x02#8]
    _ = crcByte (crcByte Config.crcInit 0x01#8) 0x02#8 ^^^ Config.crcXorOut := rfl
    _ = 0x0E7C#16 ^^^ Config.crcXorOut := by rw [hfirst, hsecond]
    _ = 0xF183#16 := by decide

/-- Settles O9: the two tables of R137 by evaluation, and the two wire bytes from its word. -/
theorem crcWorkedExample : Obligations.CrcWorkedExample := by
  unfold Obligations.CrcWorkedExample
  rw [crc16_one_two]
  exact ⟨by decide, by decide, rfl, by decide, by decide⟩

theorem exec_crc16 (bytes : List Byte) (s : State) :
    exec (.crc16 bytes) s = .next (s.report (.word (crc16 bytes)) none) := rfl

theorem crc16_eq_foldl_iterate (bytes : List Byte) :
    crc16 bytes = bytes.foldl (fun (reg : Word) (b : Byte) => crcShift^[8] (reg ^^^ (b.setWidth 16 <<< 8))) Config.crcInit ^^^
      Config.crcXorOut := by
  simp only [← crcByte_eq_iterate]
  rfl

/-- Settles O10: the statement's `shift` is `crcShift`, whose test `msb` is the bit `getMsbD 0`. -/
theorem crcFollowsTheAlgorithm : Obligations.CrcFollowsTheAlgorithm := by
  intro s bytes shift reg
  have hshift : shift = crcShift := rfl
  rw [exec_crc16, crc16_eq_foldl_iterate, ← hshift]
  rfl

end Sys2Proof.Machine
end

section
/-! PROOFS. The wire bytes of a frame, place by place (R94, R101, R151): where FLAG stands, and what follows an ESCAPE. -/

namespace Sys2Proof.Machine

/-- The wire bytes of a data byte are the byte itself, no ESCAPE, or ESCAPE and one of the two second halves. -/
theorem stuffByte_eq_self_or_pair (b : Byte) :
    (stuffByte b = [b] ∧ b ≠ Config.escape) ∨
      ∃ x, stuffByte b = [Config.escape, x] ∧ x ≠ Config.escape ∧ (x = Config.escapedFlag ∨ x = Config.escapedEscape) := by
  rcases stuffByte_cases b with ⟨h, -, hb⟩ | ⟨-, h⟩ | ⟨-, h⟩
  · exact .inl ⟨h, hb⟩
  · exact .inr ⟨_, h, by decide, .inl rfl⟩
  · exact .inr ⟨_, h, by decide, .inr rfl⟩

/-- An ESCAPE among stuffed bytes is followed at once by one of the two second halves. -/
theorem stuff_escape_answered {bs : List Byte} {k : Nat} (h : (stuff bs)[k]? = some Config.escape) :
    ∃ x, (stuff bs)[k + 1]? = some x ∧ (x = Config.escapedFlag ∨ x = Config.escapedEscape) := by
  induction bs generalizing k with
  | nil => simp at h
  | cons b bs ih =>
    rcases stuffByte_eq_self_or_pair b with ⟨hs, hb⟩ | ⟨x, hs, hx, hanswer⟩ <;> rw [stuff_cons, hs] at h ⊢
    · match k with
      | 0 => exact absurd (Option.some.inj h) hb
      | k + 1 => exact ih h
    · match k with
      | 0 => exact ⟨x, rfl, hanswer⟩
      | 1 => exact absurd (Option.some.inj h) hx
      | k + 2 => exact ih h

theorem getElem?_framed_inner {ds : List Byte} {j : Nat} (hj : j < (stuff ds).length) :
    (Config.flag :: (stuff ds ++ [Config.flag]))[j + 1]? = (stuff ds)[j]? :=
  List.getElem?_append_left hj

/-- A place of a frame's wire bytes is the opening flag, one of the stuffed bytes, or the closing flag. -/
theorem getElem?_framed {ds : List Byte} {k : Nat} {b : Byte}
    (h : (Config.flag :: (stuff ds ++ [Config.flag]))[k]? = some b) :
    (k = 0 ∧ b = Config.flag) ∨ (∃ j, k = j + 1 ∧ (stuff ds)[j]? = some b) ∨
      (k = (stuff ds).length + 1 ∧ b = Config.flag) := by
  match k with
  | 0 => exact .inl ⟨rfl, (Option.some.inj h).symm⟩
  | j + 1 =>
    rcases lt_trichotomy j (stuff ds).length with hj | rfl | hj
    · exact .inr (.inl ⟨j, rfl, (getElem?_framed_inner hj).symm.trans h⟩)
    · rw [List.getElem?_cons_succ, List.getElem?_concat_length] at h
      exact .inr (.inr ⟨rfl, (Option.some.inj h).symm⟩)
    · rw [List.getElem?_eq_none (by simpa using hj)] at h
      cases h

/-- Settles O8: no FLAG stands among the stuffed bytes between the flags, and an ESCAPE there is the first of a pair. -/
theorem flagsOnlyAtFrameEnds : Obligations.FlagsOnlyAtFrameEnds := by
  intro a c p w
  have hlen : w.length = (stuff (frameData a c p)).length + 2 := by simp [w, frameBytes]
  obtain ⟨hmin, hmax⟩ := stuff_length (frameData a c p)
  rw [frameData_length] at hmin hmax
  refine ⟨fun k h => ?_, rfl, ?_, fun k h => ?_, by omega, by omega⟩
  · rcases getElem?_framed h with ⟨h0, -⟩ | ⟨j, -, hj⟩ | ⟨hlast, -⟩
    · exact .inl h0
    · exact absurd (List.mem_of_getElem? hj) (flag_not_mem_stuff _)
    · exact .inr (by omega)
  · rw [hlen]
    simp [w, frameBytes, Config.flag]
  · have hne : Config.escape ≠ Config.flag := by decide
    rcases getElem?_framed h with ⟨-, hb⟩ | ⟨j, rfl, hj⟩ | ⟨-, hb⟩
    · exact absurd hb hne
    · obtain ⟨x, hx, hanswer⟩ := stuff_escape_answered hj
      obtain ⟨hplace, -⟩ := List.getElem?_eq_some_iff.1 hx
      have hw : w[j + 1 + 1]? = some x := (getElem?_framed_inner hplace).trans hx
      rcases hanswer with rfl | rfl
      · exact .inl hw
      · exact .inr hw
    · exact absurd hb hne

end Sys2Proof.Machine
end

section
/-! PROOFS. The transmit codec, arm by arm (R141 to R149), and the rows of both codecs (R106, R149, R167): what a call does in each
arm, the condition the opcode table gives an arm, and what a row that names an arm does. -/

namespace Sys2Proof.Machine

/-! ## Advance -/

section
variable {n : Nat} {tx : TxContext}

theorem advance_of_address (h : tx.stage = .address) : advance n tx = { tx with stage := .control } := by
  simp [advance, h]

theorem advance_of_control (h : tx.stage = .control) : advance n tx = { tx with stage := .payload, cursor := 0 } := by
  simp [advance, h]

theorem advance_of_payload_last (h : tx.stage = .payload) (hlast : tx.cursor + 1 = n) :
    advance n tx = { tx with stage := .fcsHigh, cursor := tx.cursor + 1 } := by
  simp [advance, h, hlast]

theorem advance_of_payload_more (h : tx.stage = .payload) (hmore : tx.cursor + 1 ≠ n) :
    advance n tx = { tx with cursor := tx.cursor + 1 } := by
  simp [advance, h, hmore]

theorem advance_of_fcsHigh (h : tx.stage = .fcsHigh) : advance n tx = { tx with stage := .fcsLow } := by
  simp [advance, h]

theorem advance_of_fcsLow (h : tx.stage = .fcsLow) : advance n tx = { tx with stage := .endFlag } := by
  simp [advance, h]

/-- A stage without a line stays (log 24). -/
theorem advance_of_not_stuffable (h : tx.stage = .startFlag ∨ tx.stage = .endFlag ∨ tx.stage = .done) :
    advance n tx = tx := by
  rcases h with h | h | h <;> simp [advance, h]

end

/-- Settles O38: the row writes the advanced context, stage by stage. -/
theorem advanceMovesToTheNextByte : Obligations.AdvanceMovesToTheNextByte := by
  intro s st tx goes
  have hgoes : goes (advance s.par.n tx) := ⟨_, _, rfl⟩
  exact ⟨fun h => advance_of_address h ▸ hgoes, fun h => advance_of_control h ▸ hgoes,
    fun h hlast => advance_of_payload_last h hlast ▸ hgoes, fun h hmore => advance_of_payload_more h hmore ▸ hgoes,
    fun h => advance_of_fcsHigh h ▸ hgoes, fun h => advance_of_fcsLow h ▸ hgoes,
    fun h => advance_of_not_stuffable h ▸ hgoes⟩

/-! ## The arm a call of EncodeStep takes -/

theorem queueFull_iff (s : State) (q : Queue) : queueFull s q = true ↔ s.capacity q ≤ (s.queue q).length :=
  decide_eq_true_iff

/-- The condition of an arm of `EncodeStep` (R141 to R146). -/
def EncodeArm.RowCondition (st : Station) (s : State) : EncodeArm → Prop :=
  let full : Prop := s.capacity st.outQueue ≤ (s.queue st.outQueue).length
  let sends (x : Stage) : Prop := (s.tx st).stage = x ∧ ¬full ∧ (s.tx st).escPending = false
  fun
  | .done => (s.tx st).stage = .done
  | .backpressure => (s.tx st).stage ≠ .done ∧ full
  | .escape2 => (s.tx st).stage ≠ .done ∧ ¬full ∧ (s.tx st).escPending = true
  | .startFlag => sends .startFlag
  | .endFlag => sends .endFlag
  | .address => sends .address
  | .control => sends .control
  | .payload => sends .payload
  | .fcsHigh => sends .fcsHigh
  | .fcsLow => sends .fcsLow

theorem selectEncode_eq_iff (st : Station) (s : State) (arm : EncodeArm) :
    selectEncode st s = arm ↔ arm.RowCondition st s := by
  simp only [selectEncode, queueFull_iff]
  split_ifs with hdone hfull hesc
  · cases arm <;> simp [EncodeArm.RowCondition, hdone]
  · cases arm <;> simp [EncodeArm.RowCondition, hdone, hfull]
  · cases arm <;> simp [EncodeArm.RowCondition, hdone, hfull, hesc]
  · cases hs : (s.tx st).stage with
    | done => exact absurd hs hdone
    | startFlag | address | control | payload | fcsHigh | fcsLow | endFlag =>
      cases arm <;> simp [EncodeArm.RowCondition, hs, hfull, hesc]

section
variable {st : Station} {s : State}

theorem encodeStep_of_done (h : (s.tx st).stage = .done) : encodeStep st s = .next (s.report .nothing none) := by
  simp only [encodeStep, (selectEncode_eq_iff st s .done).2 h]
  rfl

theorem encodeStep_of_full (hstage : (s.tx st).stage ≠ .done)
    (hfull : s.capacity st.outQueue ≤ (s.queue st.outQueue).length) :
    encodeStep st s = .next (s.report .nothing (some .backpressure)) := by
  simp only [encodeStep, (selectEncode_eq_iff st s .backpressure).2 ⟨hstage, hfull⟩]

section
variable (hroom : (s.queue st.outQueue).length < s.capacity st.outQueue)
include hroom

theorem encodeStep_of_escPending (hstage : (s.tx st).stage ≠ .done) (hesc : (s.tx st).escPending = true) :
    encodeStep st s = .next (sendEscape2 st s) := by
  simp only [encodeStep, (selectEncode_eq_iff st s .escape2).2 ⟨hstage, hroom.not_ge, hesc⟩]

variable (hesc : (s.tx st).escPending = false)
include hesc

theorem encodeStep_of_startFlag (hstage : (s.tx st).stage = .startFlag) :
    encodeStep st s = .next (sendFlag st .address s) := by
  simp only [encodeStep, (selectEncode_eq_iff st s .startFlag).2 ⟨hstage, hroom.not_ge, hesc⟩]

theorem encodeStep_of_endFlag (hstage : (s.tx st).stage = .endFlag) :
    encodeStep st s = .next (sendFlag st .done s) := by
  simp only [encodeStep, (selectEncode_eq_iff st s .endFlag).2 ⟨hstage, hroom.not_ge, hesc⟩]

theorem encodeStep_of_stuffable (hstage : Stage.stuffable (s.tx st).stage = true) :
    encodeStep st s = sendStage st s := by
  have selected (arm : EncodeArm) : arm.RowCondition st s → selectEncode st s = arm := (selectEncode_eq_iff st s arm).2
  cases hs : (s.tx st).stage with
  | startFlag | endFlag | done => simp [hs, Stage.stuffable] at hstage
  | address => simp only [encodeStep, selected .address ⟨hs, hroom.not_ge, hesc⟩]
  | control => simp only [encodeStep, selected .control ⟨hs, hroom.not_ge, hesc⟩]
  | payload => simp only [encodeStep, selected .payload ⟨hs, hroom.not_ge, hesc⟩]
  | fcsHigh => simp only [encodeStep, selected .fcsHigh ⟨hs, hroom.not_ge, hesc⟩]
  | fcsLow => simp only [encodeStep, selected .fcsLow ⟨hs, hroom.not_ge, hesc⟩]

theorem encodeStep_of_logicalByte {b : Byte} (hb : logicalByte (s.tx st) (s.txPacket st) = some b) :
    encodeStep st s = .next (sendLogical st b s) := by
  rw [encodeStep_of_stuffable hroom hesc (stuffable_of_logicalByte hb), sendStage, hb]

theorem encodeStep_of_cursor_outside (hstage : (s.tx st).stage = .payload)
    (hcursor : (s.txPacket st).payload.length ≤ (s.tx st).cursor) : encodeStep st s = .fault .payloadIndex := by
  have hb : logicalByte (s.tx st) (s.txPacket st) = none := by simp [logicalByte, hstage, hcursor]
  rw [encodeStep_of_stuffable hroom hesc (by rw [hstage]; rfl), sendStage, hb]

end
end

/-! ## The rows of EncodeStep -/

/-- The arms of `EncodeStep`, in the order of R149. -/
def encodeArms : List EncodeArm :=
  [.done, .backpressure, .escape2, .startFlag, .endFlag, .address, .control, .payload, .fcsHigh, .fcsLow]

/-- The row of an arm. -/
def encodeRow (st : Station) : EncodeArm → Instr
  | .done => .encodeDone st
  | .backpressure => .encodeBackpressure st
  | .escape2 => .encodeEscape2 st
  | .startFlag => .encodeStartFlag st
  | .endFlag => .encodeEndFlag st
  | .address => .encodeAddress st
  | .control => .encodeControl st
  | .payload => .encodePayload st
  | .fcsHigh => .encodeFcsHigh st
  | .fcsLow => .encodeFcsLow st

theorem mem_encodeArms (arm : EncodeArm) : arm ∈ encodeArms := by
  cases arm <;> decide

theorem exec_encodeRow (arm : EncodeArm) (st : Station) (s : State) :
    exec (encodeRow st arm) s = tellArm (decide (selectEncode st s = arm)) (encodeStep st s) := by
  cases arm <;> rfl

section
variable {st : Station} {s : State} (arm : EncodeArm)

/-- A row ends in the state its operation ends in, with the operation's label; only the value the host is told is its own. -/
theorem exec_encodeRow_of_next {u : State} {ret : Ret} {label : Option Condition}
    (h : encodeStep st s = .next (u.report ret label)) :
    ∃ ret', exec (encodeRow st arm) s = .next (u.report ret' label) :=
  ⟨_, by rw [exec_encodeRow, h, tellArm_next, State.report_report]; rfl⟩

theorem exec_encodeRow_of_quiet {u : State} (h : encodeStep st s = .next u.quiet) :
    ∃ ret label, exec (encodeRow st arm) s = .next (u.report ret label) :=
  let ⟨ret, hret⟩ := exec_encodeRow_of_next arm h
  ⟨ret, none, hret⟩

theorem exec_encodeRow_of_fault {f : Fault} (h : encodeStep st s = .fault f) : exec (encodeRow st arm) s = .fault f := by
  rw [exec_encodeRow, h, tellArm_fault]

end

/-- Settles O34: both tests come before every write. -/
theorem encodeStepNoOps : Obligations.EncodeStepNoOps := fun _ _ =>
  ⟨fun hdone => exec_encodeRow_of_next .done (encodeStep_of_done hdone),
    fun hstage hfull => exec_encodeRow_of_next .backpressure (encodeStep_of_full hstage hfull)⟩

/-- Settles O35: the two flags go through `sendFlag`, past the stuffing. -/
theorem flagsAreSentLiterally : Obligations.FlagsAreSentLiterally := fun _ _ hroom hesc =>
  ⟨fun hstage => exec_encodeRow_of_quiet .startFlag (encodeStep_of_startFlag hroom hesc hstage),
    fun hstage => exec_encodeRow_of_quiet .endFlag (encodeStep_of_endFlag hroom hesc hstage)⟩

/-- Settles O36: the flag is tested before the stage is looked at. -/
theorem escapeSecondHalfIsSent : Obligations.EscapeSecondHalfIsSent := fun _ _ hstage hroom hesc =>
  exec_encodeRow_of_quiet .escape2 (encodeStep_of_escPending hroom hstage hesc)

/-- Settles O37: the five rows differ in the logical byte alone; what is done with it is `sendLogical`. -/
theorem stuffableStagesSendTheirByte : Obligations.StuffableStagesSendTheirByte := by
  intro s st b hroom hesc t
  have hsend : sendLogical st b s = t.quiet := by
    by_cases h : b = Config.flag ∨ b = Config.escape
    · rw [sendLogical, if_pos ((needsStuffing_iff b).2 h), show t = _ from if_pos h]
      rfl
    · rw [sendLogical, if_neg (mt (needsStuffing_iff b).1 h), show t = _ from if_neg h]
      rfl
  have sends (arm : EncodeArm) (hb : logicalByte (s.tx st) (s.txPacket st) = some b) :
      ∃ ret label, exec (encodeRow st arm) s = .next (t.report ret label) :=
    exec_encodeRow_of_quiet arm (by rw [encodeStep_of_logicalByte hroom hesc hb, hsend])
  refine ⟨fun hs hb => sends .address ?_, fun hs hb => sends .control ?_, fun hs hb => sends .payload ?_,
    fun hs hcursor => exec_encodeRow_of_fault .payload (encodeStep_of_cursor_outside hroom hesc hs hcursor),
    fun hs hb => sends .fcsHigh ?_, fun hs hb => sends .fcsLow ?_⟩ <;>
  simp [logicalByte, hs, hb]

/-! ## The arm a call of DecodeStep takes -/

/-- The condition of a class on a receive context and the byte read (R163 to R166). -/
def ByteClass.Condition (rx : RxContext) (b : Byte) : ByteClass → Prop
  | .unescape => rx.unescPending = true
  | .escape => rx.unescPending = false ∧ b = Config.escape
  | .flagOpen => rx.unescPending = false ∧ b = Config.flag ∧ rx.started = false
  | .flagClose => rx.unescPending = false ∧ b = Config.flag ∧ rx.started = true
  | .data => rx.unescPending = false ∧ b ≠ Config.escape ∧ b ≠ Config.flag

theorem classify_eq_iff (rx : RxContext) (b : Byte) (cls : ByteClass) : classify rx b = cls ↔ cls.Condition rx b := by
  have hne : Config.flag ≠ Config.escape := by decide
  rcases classify_cases rx b with ⟨hu, hc⟩ | ⟨hu, rfl, hc⟩ | ⟨hu, rfl, hs, hc⟩ | ⟨hu, rfl, hs, hc⟩ | ⟨hu, h1, h2, hc⟩
  · cases cls <;> simp [hc, ByteClass.Condition, hu]
  · cases cls <;> simp [hc, ByteClass.Condition, hu, hne.symm]
  · cases cls <;> simp [hc, ByteClass.Condition, hu, hs, hne]
  · cases cls <;> simp [hc, ByteClass.Condition, hu, hs, hne]
  · cases cls <;> simp [hc, ByteClass.Condition, hu, h1, h2]

/-- The condition of an arm of `DecodeStep` (R161 to R166). -/
def DecodeArm.RowCondition (st : Station) (s : State) : DecodeArm → Prop
  | .stalled => (s.rx st).assembled = true
  | .empty => (s.rx st).assembled = false ∧ s.queue st.inQueue = []
  | .byte cls => (s.rx st).assembled = false ∧ ∃ b, (s.queue st.inQueue).head? = some b ∧ cls.Condition (s.rx st) b

theorem selectDecode_eq_iff (st : Station) (s : State) (arm : DecodeArm) :
    selectDecode st s = arm ↔ arm.RowCondition st s := by
  unfold selectDecode
  split_ifs with ha
  · cases arm <;> simp [DecodeArm.RowCondition, ha]
  · cases hq : s.queue st.inQueue with
    | nil => cases arm <;> simp [DecodeArm.RowCondition, ha, hq]
    | cons b rest => cases arm <;> simp [DecodeArm.RowCondition, ha, hq, classify_eq_iff]

/-! ## The rows of DecodeStep -/

/-- The arms of `DecodeStep`, in the order of R167. -/
def decodeArms : List DecodeArm :=
  [.stalled, .empty, .byte .unescape, .byte .escape, .byte .flagOpen, .byte .flagClose, .byte .data]

/-- The row of an arm. -/
def decodeRow (st : Station) : DecodeArm → Instr
  | .stalled => .decodeStalled st
  | .empty => .decodeEmpty st
  | .byte .unescape => .decodeUnescape st
  | .byte .escape => .decodeEscape st
  | .byte .flagOpen => .decodeFlagOpen st
  | .byte .flagClose => .decodeFlagClose st
  | .byte .data => .decodeData st

theorem mem_decodeArms (arm : DecodeArm) : arm ∈ decodeArms := by
  rcases arm with _ | _ | cls
  · decide
  · decide
  · cases cls <;> decide

theorem exec_decodeRow (arm : DecodeArm) (st : Station) (s : State) :
    exec (decodeRow st arm) s = tellArm (decide (selectDecode st s = arm)) (.next (decodeStep st s)) := by
  rcases arm with _ | _ | cls
  · rfl
  · rfl
  · cases cls <;> rfl

/-! ## Exactly one row -/

/-- Where a condition holds exactly of the arm selected, the row of that arm is the one whose condition holds. -/
theorem exists_selected_row {Arm : Type} {arms : List Arm} {selected : Arm} {condition : Arm → Prop} (row : Arm → Instr)
    (hmem : selected ∈ arms) (hiff : ∀ arm, selected = arm ↔ condition arm) :
    ∃ r ∈ arms.map fun arm => (row arm, condition arm), r.2 ∧
      ∀ other ∈ arms.map fun arm => (row arm, condition arm), other.2 → other.1 = r.1 := by
  refine ⟨_, List.mem_map_of_mem hmem, (hiff selected).1 rfl, List.forall_mem_map.2 fun arm _ h => ?_⟩
  rw [(hiff arm).2 h]

/-- Settles O30: the rows are the arms with their conditions, and a condition holds exactly of the arm selected. -/
theorem exactlyOneCodecArm : Obligations.ExactlyOneCodecArm := by
  intro s st tx rx full sends takes encodeRows decodeRows
  have hencode : encodeRows = encodeArms.map fun arm => (encodeRow st arm, arm.RowCondition st s) := rfl
  have hdecode : decodeRows = decodeArms.map fun arm => (decodeRow st arm, arm.RowCondition st s) := rfl
  rw [hencode, hdecode]
  refine ⟨List.forall_mem_map.2 fun arm _ => ?_, ?_, List.forall_mem_map.2 fun arm _ => ?_, ?_⟩
  · refine ⟨_, decide_eq_true_iff.trans (selectEncode_eq_iff st s arm), fun e he => ?_, fun f hf => ?_⟩
    · rw [exec_encodeRow, he, tellArm_next]
    · rw [exec_encodeRow, hf, tellArm_fault]
  · exact exists_selected_row (encodeRow st) (mem_encodeArms _) (selectEncode_eq_iff st s)
  · exact ⟨_, decide_eq_true_iff.trans (selectDecode_eq_iff st s arm), by rw [exec_decodeRow, tellArm_next]⟩
  · exact exists_selected_row (decodeRow st) (mem_decodeArms _) (selectDecode_eq_iff st s)

end Sys2Proof.Machine
end

section
/-! PROOFS. A whole frame (R150): the wire bytes a transmit context still owes, the byte each productive call of `EncodeStep` takes
off them, and as many activations of the initiator as there are bytes. -/

namespace Sys2Proof.Machine

/-! ## The bytes still owed -/

/-- The data bytes from the one of the context's stage on (R90, R147, R148). -/
def owedData (tx : TxContext) (pkt : Packet) : List Byte :=
  match tx.stage with
  | .startFlag => pkt.address :: pkt.control :: (pkt.payload ++ [tx.fcsFirst, tx.fcsSecond])
  | .address => pkt.address :: pkt.control :: (pkt.payload ++ [tx.fcsFirst, tx.fcsSecond])
  | .control => pkt.control :: (pkt.payload ++ [tx.fcsFirst, tx.fcsSecond])
  | .payload => pkt.payload.drop tx.cursor ++ [tx.fcsFirst, tx.fcsSecond]
  | .fcsHigh => [tx.fcsFirst, tx.fcsSecond]
  | .fcsLow => [tx.fcsSecond]
  | .endFlag => []
  | .done => []

/-- The wire bytes a transmit context has not sent yet. Where a second half is owed, the data byte of the stage is half sent. -/
def owed (tx : TxContext) (pkt : Packet) : List Byte :=
  if tx.stage = .startFlag then Config.flag :: (stuff (owedData tx pkt) ++ [Config.flag])
  else if tx.stage = .done then []
  else if tx.escPending then (tx.curByte ^^^ Config.xorMask) :: (stuff (owedData tx pkt).tail ++ [Config.flag])
  else stuff (owedData tx pkt) ++ [Config.flag]

theorem owed_txInit (pkt : Packet) :
    owed (txInit (packetCrc pkt.address pkt.control pkt.payload)) pkt =
      frameBytes pkt.address pkt.control pkt.payload := rfl

theorem owed_eq_nil_iff (tx : TxContext) (pkt : Packet) : owed tx pkt = [] ↔ tx.stage = .done := by
  unfold owed
  split_ifs with hstart hdone <;> simp_all

section
variable {n : Nat} {tx : TxContext} {pkt : Packet} {b : Byte}

/-- `Advance` takes the logical byte of the stage off the data bytes still owed. -/
theorem owedData_eq_cons_advance (hlen : pkt.payload.length = n)
    (hb : logicalByte tx pkt = some b) : owedData tx pkt = b :: owedData (advance n tx) pkt := by
  cases hs : tx.stage with
  | startFlag | endFlag | done => simp [logicalByte, hs] at hb
  | address =>
    simp only [logicalByte, hs, Option.some.injEq] at hb
    simp [advance_of_address hs, owedData, hs, hb]
  | control =>
    simp only [logicalByte, hs, Option.some.injEq] at hb
    simp [advance_of_control hs, owedData, hs, hb]
  | payload =>
    simp only [logicalByte, hs] at hb
    obtain ⟨hcursor, rfl⟩ := List.getElem?_eq_some_iff.1 hb
    by_cases hlast : tx.cursor + 1 = n
    · have hnone : pkt.payload.drop (tx.cursor + 1) = [] := List.drop_eq_nil_of_le (by omega)
      simp [advance_of_payload_last hs hlast, owedData, hs, List.drop_eq_getElem_cons hcursor, hnone]
    · simp only [advance_of_payload_more hs hlast, owedData, hs]
      rw [List.drop_eq_getElem_cons hcursor, List.cons_append]
  | fcsHigh =>
    simp only [logicalByte, hs, Option.some.injEq] at hb
    simp [advance_of_fcsHigh hs, owedData, hs, hb]
  | fcsLow =>
    simp only [logicalByte, hs, Option.some.injEq] at hb
    simp [advance_of_fcsLow hs, owedData, hs, hb]

theorem advance_stage_ne_of_stuffable (hs : Stage.stuffable tx.stage = true) :
    (advance n tx).stage ≠ .startFlag ∧ (advance n tx).stage ≠ .done := by
  cases h : tx.stage with
  | startFlag | endFlag | done => simp [h, Stage.stuffable] at hs
  | address => simp [advance_of_address h]
  | control => simp [advance_of_control h]
  | payload =>
    by_cases hlast : tx.cursor + 1 = n
    · simp [advance_of_payload_last h hlast]
    · simp [advance_of_payload_more h hlast, h]
  | fcsHigh => simp [advance_of_fcsHigh h]
  | fcsLow => simp [advance_of_fcsLow h]

theorem owed_of_not_escPending (hstart : tx.stage ≠ .startFlag) (hdone : tx.stage ≠ .done)
    (hesc : tx.escPending = false) : owed tx pkt = stuff (owedData tx pkt) ++ [Config.flag] := by
  simp [owed, hstart, hdone, hesc]

theorem owed_of_escPending (hstart : tx.stage ≠ .startFlag) (hdone : tx.stage ≠ .done) (hesc : tx.escPending = true) :
    owed tx pkt = (tx.curByte ^^^ Config.xorMask) :: (stuff (owedData tx pkt).tail ++ [Config.flag]) := by
  simp [owed, hstart, hdone, hesc]

theorem stage_ne_of_logicalByte (hb : logicalByte tx pkt = some b) : tx.stage ≠ .startFlag ∧ tx.stage ≠ .done := by
  constructor <;> rintro hs <;> simp [logicalByte, hs] at hb

theorem owed_of_logicalByte (hlen : pkt.payload.length = n) (hesc : tx.escPending = false)
    (hb : logicalByte tx pkt = some b) :
    owed tx pkt = stuffByte b ++ (stuff (owedData tx pkt).tail ++ [Config.flag]) := by
  obtain ⟨hstart, hdone⟩ := stage_ne_of_logicalByte hb
  rw [owed_of_not_escPending hstart hdone hesc, owedData_eq_cons_advance hlen hb, List.tail_cons, stuff_cons,
    List.append_assoc]

/-- What is owed once the data byte of the stage is sent (R145, R146). -/
theorem owed_advance (hlen : pkt.payload.length = n) (hesc : tx.escPending = false) (hb : logicalByte tx pkt = some b) :
    owed (advance n tx) pkt = stuff (owedData tx pkt).tail ++ [Config.flag] := by
  obtain ⟨hstart, hdone⟩ := advance_stage_ne_of_stuffable (n := n) (stuffable_of_logicalByte hb)
  rw [owed_of_not_escPending hstart hdone (by rw [advance_escPending, hesc]), owedData_eq_cons_advance hlen hb,
    List.tail_cons]

/-! ## Each arm of EncodeStep writes the first of the bytes owed (R143 to R146) -/

theorem owed_eq_cons_of_startFlag (hesc : tx.escPending = false) (hstage : tx.stage = .startFlag) :
    owed tx pkt = Config.flag :: owed { tx with curByte := Config.flag, stage := .address } pkt := by
  simp [owed, owedData, hstage, hesc]

theorem owed_eq_cons_of_endFlag (hesc : tx.escPending = false) (hstage : tx.stage = .endFlag) :
    owed tx pkt = Config.flag :: owed { tx with curByte := Config.flag, stage := .done } pkt := by
  simp [owed, owedData, hstage, hesc]

theorem owed_eq_cons_of_escape2 (hlen : pkt.payload.length = n) (hesc : tx.escPending = true)
    (hb : logicalByte tx pkt = some b) :
    owed tx pkt = (tx.curByte ^^^ Config.xorMask) :: owed (advance n { tx with escPending := false }) pkt := by
  obtain ⟨hstart, hdone⟩ := stage_ne_of_logicalByte hb
  rw [owed_advance (tx := { tx with escPending := false }) hlen rfl hb, owed_of_escPending hstart hdone hesc]
  rfl

theorem owed_eq_cons_of_stuffed (hlen : pkt.payload.length = n) (hesc : tx.escPending = false)
    (hb : logicalByte tx pkt = some b) (hstuff : needsStuffing b = true) :
    owed tx pkt = Config.escape :: owed { tx with curByte := b, escPending := true } pkt := by
  obtain ⟨hstart, hdone⟩ := stage_ne_of_logicalByte hb
  have hpair : stuffByte b = [Config.escape, b ^^^ Config.xorMask] := if_pos hstuff
  rw [owed_of_logicalByte hlen hesc hb, hpair,
    owed_of_escPending (tx := { tx with curByte := b, escPending := true }) hstart hdone rfl]
  rfl

theorem owed_eq_cons_of_plain (hlen : pkt.payload.length = n) (hesc : tx.escPending = false)
    (hb : logicalByte tx pkt = some b) (hstuff : needsStuffing b = false) :
    owed tx pkt = b :: owed (advance n { tx with curByte := b }) pkt := by
  have hself : stuffByte b = [b] := if_neg (Bool.eq_false_iff.1 hstuff)
  rw [owed_of_logicalByte hlen hesc hb, hself, owed_advance (tx := { tx with curByte := b }) hlen hesc hb]
  rfl

end

/-- A consistent context has a logical byte in every stuffable stage: its cursor is inside the payload (R148). -/
theorem exists_logicalByte {n : Nat} {tx : TxContext} {pkt : Packet} (hok : tx.Ok n) (hlen : pkt.payload.length = n)
    (hs : Stage.stuffable tx.stage = true) : ∃ b, logicalByte tx pkt = some b := by
  obtain ⟨-, -, hcursor, -⟩ := hok
  cases h : tx.stage with
  | startFlag | endFlag | done => simp [h, Stage.stuffable] at hs
  | address | control | fcsHigh | fcsLow => simp [logicalByte, h]
  | payload =>
    have hplace : tx.cursor < pkt.payload.length := by have := hcursor h; omega
    exact ⟨pkt.payload[tx.cursor], by simp [logicalByte, h, hplace]⟩

/-- With room in the queue, `EncodeStep` writes the first of the bytes owed, and owes the others (R150). -/
theorem encodeStep_sends_owed {st : Station} {s : State} (hok : (s.tx st).Ok s.par.n)
    (hlen : (s.txPacket st).payload.length = s.par.n) (hdone : (s.tx st).stage ≠ .done)
    (hroom : (s.queue st.outQueue).length < s.capacity st.outQueue) :
    ∃ b tx, encodeStep st s = .next (s.emit st b tx) ∧ owed (s.tx st) (s.txPacket st) = b :: owed tx (s.txPacket st) := by
  rcases encodeStep_cases st s with ⟨-, -, h | h⟩ | ⟨b, tx, he, -, -, hsent⟩ | ⟨-, hs, -, hcursor, -⟩
  · exact absurd h hdone
  · exact absurd hroom h.not_gt
  · refine ⟨b, tx, he, ?_⟩
    rcases hsent with ⟨hesc, rfl, rfl⟩ | ⟨hesc, hs, rfl, rfl⟩ | ⟨hesc, hs, rfl, rfl⟩ | ⟨d, hesc, hd, hstuff, rfl, rfl⟩ |
      ⟨hesc, hb, hstuff, rfl⟩
    · obtain ⟨-, hstuffable, -, -⟩ := id hok
      obtain ⟨d, hd⟩ := exists_logicalByte hok hlen (hstuffable hesc).1
      exact owed_eq_cons_of_escape2 hlen hesc hd
    · exact owed_eq_cons_of_startFlag hesc hs
    · exact owed_eq_cons_of_endFlag hesc hs
    · exact owed_eq_cons_of_stuffed hlen hesc hd hstuff
    · exact owed_eq_cons_of_plain hlen hesc hb hstuff
  · obtain ⟨-, -, hpayload, -⟩ := hok
    have := hpayload hs
    omega

/-! ## The activations of one transmission -/

/-- The initiator is in Transmit and owes `wire`, with room for it and as many activations to come. -/
structure Transmitting (s : State) (wire : List Byte) : Prop where
  state : s.ini.state = .transmit
  n_pos : 1 ≤ s.par.n
  payload_length : s.ini.link.txPacket.payload.length = s.par.n
  tx_ok : s.ini.link.tx.Ok s.par.n
  owed_eq : owed s.ini.link.tx s.ini.link.txPacket = wire
  room : s.qa.length + wire.length ≤ s.par.capQA
  prog : s.prog = List.replicate wire.length (encode .scriptStepI)

/-- The deadline armed, and AwaitReply (R192). -/
def State.awaitReply (s : State) : State :=
  { s with ini := { s.ini with deadline := setDeadline s s.par.replyTimeoutMs, state := .awaitReply } }

theorem initiatorStep_of_transmit {s e : State} (hs : s.ini.state = .transmit) (he : encodeStep .initiator s = .next e) :
    initiatorStep s = .next (if e.ini.link.tx.stage = .done then e.awaitReply else e) := by
  simp only [initiatorStep, (selectInitiator_eq_iff s .transmit).2 hs, initiatorTransmit, he, andThen]
  split_ifs <;> rfl

theorem step_scriptStepI {s : State} {rest : List FetchWord} (hp : s.prog = encode .scriptStepI :: rest) :
    step s = initiatorStep { s with prog := rest } :=
  step_of_ok hp (decodeOfEncodeIsTheInstruction .scriptStepI rfl) rfl

/-- An activation sends the first byte owed; it goes to AwaitReply exactly when that was the last. -/
theorem Transmitting.step {s : State} {b : Byte} {wire : List Byte} (h : Transmitting s (b :: wire)) :
    ∃ tx, tx.Ok s.par.n ∧
      let e := State.emit { s with prog := List.replicate wire.length (encode .scriptStepI) } .initiator b tx
      (wire = [] ∧ tx.stage = .done ∧ Machine.step s = .next e.awaitReply) ∨
        (wire ≠ [] ∧ Machine.step s = .next e ∧ Transmitting e wire) := by
  obtain ⟨hstate, hn, hlen, hok, howed, hroom, hprog⟩ := h
  rw [List.length_cons] at hroom
  have hdone : s.ini.link.tx.stage ≠ .done := fun hd => by
    rw [(owed_eq_nil_iff _ _).2 hd] at howed
    cases howed
  let fetched : State := { s with prog := List.replicate wire.length (encode .scriptStepI) }
  obtain ⟨b', tx, he, hsent⟩ := encodeStep_sends_owed (st := .initiator) (s := fetched) hok hlen hdone
    (show s.qa.length < s.par.capQA by omega)
  obtain ⟨rfl, hrest⟩ := List.cons.inj (howed.symm.trans hsent)
  have hstep := (step_scriptStepI hprog).trans (initiatorStep_of_transmit hstate he)
  have htx : tx.Ok s.par.n := encodeStep_tx_ok (st := .initiator) (s := fetched) hok hn he
  refine ⟨tx, htx, ?_⟩
  by_cases hd : tx.stage = .done
  · exact .inl ⟨hrest.trans ((owed_eq_nil_iff _ _).2 hd), hd, hstep.trans (congrArg _ (if_pos hd))⟩
  · refine .inr ⟨fun hnil => hd ((owed_eq_nil_iff _ _).1 (hrest.symm.trans hnil)),
      hstep.trans (congrArg _ (if_neg hd)), hstate, hn, hlen, htx, hrest.symm, ?_, rfl⟩
    show (s.qa ++ [b]).length + wire.length ≤ s.par.capQA
    rw [List.length_append, List.length_singleton]
    omega

theorem run_succ_of_step {s s' : State} (h : step s = .next s') (k : Nat) : core.run (k + 1) s = core.run k s' := by
  simp only [Host.Core.run, show core.step s = .next s' from h]

/-- As many activations as there are bytes owed send them all and end in AwaitReply (R150, R192). -/
theorem Transmitting.run {wire : List Byte} {s : State} (h : Transmitting s wire) (hne : wire ≠ []) :
    ∃ tx host, core.run wire.length s =
        .next { s with
          ini := { s.ini with
            state := .awaitReply
            link := { s.ini.link with tx := tx }
            deadline := setDeadline s s.par.replyTimeoutMs }
          qa := s.qa ++ wire
          prog := []
          host := host } ∧
      tx.stage = .done ∧ tx.Ok s.par.n := by
  induction wire generalizing s with
  | nil => exact absurd rfl hne
  | cons b wire ih =>
    obtain ⟨tx, hok, ⟨rfl, hdone, hstep⟩ | ⟨hne', hstep, h'⟩⟩ := h.step
    · exact ⟨tx, _, run_succ_of_step hstep 0, hdone, hok⟩
    · obtain ⟨tx', host, hrun, hdone, hok'⟩ := ih h' hne'
      refine ⟨tx', host, ?_, hdone, hok'⟩
      rw [List.length_cons, run_succ_of_step hstep, hrun, List.append_cons]
      rfl

/-- Settles O40: a fresh context owes the whole frame, and each activation sends one byte of what is owed. -/
theorem wholeFrameIsTransmitted : Obligations.WholeFrameIsTransmitted := by
  intro s pkt wire hstate hn hlen htx hroom hprog
  have h : Transmitting s wire :=
    ⟨hstate, hn, hlen, by rw [htx]; exact txInit_ok _ _, by rw [htx]; exact owed_txInit pkt, hroom, hprog⟩
  obtain ⟨tx, host, hrun, hdone, -, -, -, hend⟩ := h.run (List.cons_ne_nil _ _)
  exact ⟨_, hrun, rfl, rfl, rfl, hdone, hend (by rw [hdone]; decide), rfl, rfl, rfl, rfl⟩

end Sys2Proof.Machine
end

section
/-! PROOFS. The receive codec, byte by byte (R161 to R169): a data byte by its position, and a byte of each class, handed to an
open receiver or taken from its queue. -/

namespace Sys2Proof.Machine

/-! ## Route -/

/-- Settles O26: the row writes the routed context, position by position. -/
theorem routeStoresByPosition : Obligations.RouteStoresByPosition := by
  intro s st d n rx goes
  have hgoes : goes (routeByte n rx d) := ⟨_, _, rfl⟩
  exact ⟨fun h => routeByte_address h d ▸ hgoes, fun h => routeByte_control h d ▸ hgoes,
    fun h h' => routeByte_payload h h' d ▸ hgoes, fun _ h => routeByte_fcsFirst h d ▸ hgoes,
    fun _ h => routeByte_fcsSecond h d ▸ hgoes, fun h => routeByte_overflow h d ▸ hgoes,
    fun h => routeByte_saturated (by omega : n + 4 < rx.pos) d ▸ hgoes⟩

/-! ## A call of DecodeStep, and its row -/

section
variable {st : Station} {s : State} {b : Byte} {cls : ByteClass}

theorem decodeStep_of_closed (ha : (s.rx st).assembled = true) : decodeStep st s = s.report .nothing none := if_pos ha

theorem decodeStep_of_empty (ha : (s.rx st).assembled = false) (hq : s.queue st.inQueue = []) :
    decodeStep st s = s.report .nothing (some .backpressure) := by
  simp [decodeStep, ha, hq]

theorem decodeStep_of_cons (ha : (s.rx st).assembled = false) {rest : List Byte} (hq : s.queue st.inQueue = b :: rest) :
    decodeStep st s = consume st b (s.setQueue st.inQueue rest) := by
  simp [decodeStep, ha, hq, State.qDrop]

/-- A row ends in the state its operation ends in, with the operation's label. -/
theorem exec_decodeRow_of_report (arm : DecodeArm) {u : State} {ret : Ret} {label : Option Condition}
    (h : decodeStep st s = u.report ret label) :
    ∃ ret', exec (decodeRow st arm) s = .next (u.report ret' label) :=
  ⟨_, by rw [exec_decodeRow, h, tellArm_next, State.report_report]; rfl⟩

/-! ## A byte of each class -/

theorem consume_of_condition (h : cls.Condition (s.rx st) b) : consume st b s = consumeAs cls st b s := by
  rw [consume, (classify_eq_iff _ _ _).2 h]

theorem deliver_of_condition (ha : (s.rx st).assembled = false) (h : cls.Condition (s.rx st) b) :
    deliver st b s = consumeAs cls st b s := by
  rw [deliver, if_neg (Bool.eq_false_iff.1 ha), consume_of_condition h]

/-- The row of the byte's class takes the oldest byte off the queue, and is told that it is the one selected. -/
theorem exec_decodeRow_of_condition (ha : (s.rx st).assembled = false) (h : cls.Condition (s.rx st) b) {rest : List Byte}
    (hq : s.queue st.inQueue = b :: rest) :
    exec (decodeRow st (.byte cls)) s =
      .next ((consumeAs cls st b (s.setQueue st.inQueue rest)).report (.bool true)
        (consumeAs cls st b (s.setQueue st.inQueue rest)).host.label) := by
  have hsel : selectDecode st s = .byte cls := (selectDecode_eq_iff st s _).2 ⟨ha, b, by rw [hq]; rfl, h⟩
  have hstep : decodeStep st s = consumeAs cls st b (s.setQueue st.inQueue rest) := by
    rw [decodeStep_of_cons ha hq, consume_of_condition (by rwa [State.setQueue_rx])]
  rw [exec_decodeRow, tellArm_next, hstep, decide_eq_true hsel]

/-- Where what the class does is an update of the receive context, the row and a byte handed over make the same update. -/
theorem takes_of_condition {x : RxContext} (ha : (s.rx st).assembled = false) (h : cls.Condition (s.rx st) b)
    (hx : ∀ t : State, t.par = s.par → t.rx st = s.rx st → consumeAs cls st b t = (t.setRx st x).quiet) :
    deliver st b s = (s.setRx st x).quiet ∧
      ∀ rest : List Byte, s.queue st.inQueue = b :: rest → ∃ ret label, exec (decodeRow st (.byte cls)) s =
        .next (((s.setQueue st.inQueue rest).setRx st x).report ret label) := by
  refine ⟨(deliver_of_condition ha h).trans (hx s rfl rfl), fun rest hq => ⟨.bool true, none, ?_⟩⟩
  rw [exec_decodeRow_of_condition ha h hq, hx _ (State.setQueue_par ..) (State.setQueue_rx ..)]
  rfl

end

/-- The rows of one wire byte: DATA and ESCAPED take any, FLAG and ESCAPE are the byte they name (R100, log 12). -/
def wireRows (st : Station) (b : Byte) : List Instr :=
  [.data st b, .escaped st b] ++ (if b = Config.flag then [.flag st] else []) ++
    (if b = Config.escape then [.escape st] else [])

theorem exec_of_mem_wireRows {st : Station} {b : Byte} {i : Instr} (h : i ∈ wireRows st b) (s : State) :
    exec i s = .next (deliver st b s) := by
  simp only [wireRows, List.mem_append, List.mem_cons, List.not_mem_nil, or_false] at h
  rcases h with ((rfl | rfl) | h) | h
  · rfl
  · rfl
  · split_ifs at h with hb
    · obtain rfl := List.mem_singleton.1 h
      rw [hb]; rfl
    · cases h
  · split_ifs at h with hb
    · obtain rfl := List.mem_singleton.1 h
      rw [hb]; rfl
    · cases h

/-- Settles O22: the class is `unescape` whatever the byte. -/
theorem byteAfterEscapeIsUnescaped : Obligations.ByteAfterEscapeIsUnescaped := by
  intro s st b ha hu rx
  obtain ⟨hwire, hqueue⟩ := takes_of_condition (cls := .unescape) (b := b) (x := rx) ha hu fun t hpar hrx => by
    simp [consumeAs, State.route, hpar, hrx, rx, Config.xorMask]
  exact ⟨fun i hi => ⟨_, _, (exec_of_mem_wireRows hi s).trans (congrArg _ hwire)⟩, hqueue⟩

/-- Settles O23: the classes `escape` and `data`. -/
theorem escapeAndDataBytes : Obligations.EscapeAndDataBytes := by
  intro s st ha hu
  obtain ⟨hwire, hqueue⟩ := takes_of_condition (cls := .escape) ha ⟨hu, rfl⟩ fun t _ hrx => by
    rw [consumeAs, hrx]
  refine ⟨⟨_, _, congrArg _ hwire⟩, hqueue, fun d hflag hescape => ?_⟩
  obtain ⟨hwire, hqueue⟩ := takes_of_condition (cls := .data) ha ⟨hu, hescape, hflag⟩ fun t hpar hrx => by
    rw [consumeAs, State.route, hpar, hrx]
  exact ⟨⟨_, _, congrArg _ hwire⟩, hqueue⟩

/-- Settles O24: the class of a FLAG depends on whether a frame is open; a closing one is `ValidateFrame` on the closed
context. -/
theorem flagOpensAndCloses : Obligations.FlagOpensAndCloses := by
  intro s st ha hu
  constructor
  · intro hs
    obtain ⟨hwire, hqueue⟩ := takes_of_condition (cls := .flagOpen) ha ⟨hu, rfl, hs⟩ fun t _ hrx => by
      rw [consumeAs, hrx]
    exact ⟨⟨_, _, congrArg _ hwire⟩, hqueue⟩
  · intro hs
    have hclose : ByteClass.flagClose.Condition (s.rx st) Config.flag := ⟨hu, rfl, hs⟩
    refine ⟨⟨_, congrArg Host.Outcome.next (deliver_of_condition ha hclose), rfl⟩, fun rest hq => ?_⟩
    refine ⟨_, _, exec_decodeRow_of_condition ha hclose hq, ?_⟩
    rw [consumeAs, State.setQueue_rx]
    rfl

/-! ## Nothing to decode -/

theorem deliverAll_of_closed {st : Station} {s : State} (ha : (s.rx st).assembled = true) (bs : List Byte) :
    ∃ ret label, deliverAll st bs s = s.report ret label := by
  induction bs generalizing s with
  | nil => exact ⟨s.host.ret, s.host.label, rfl⟩
  | cons b bs ih =>
    obtain ⟨ret, label, h⟩ := ih (s := s.quiet) (by rwa [State.quiet_rx])
    exact ⟨ret, label, by rw [deliverAll, deliver, if_pos ha, h]; rfl⟩

/-- Settles O25: both tests come before any write; every row but DECODESTEP.STALLED hands bytes to the closed receiver. -/
theorem nothingToDecode : Obligations.NothingToDecode := by
  intro s st
  constructor
  · intro ha i hi
    have wire (bs : List Byte) (h : ∀ t, exec i t = .next (deliverAll st bs t)) :
        ∃ ret label, exec i s = .next (s.report ret label) := by
      obtain ⟨ret, label, hd⟩ := deliverAll_of_closed ha bs
      exact ⟨ret, label, by rw [h, hd]⟩
    simp only [List.mem_cons, List.not_mem_nil, or_false] at hi
    rcases hi with (rfl | rfl | rfl | rfl | rfl) | ⟨a, c, p, rfl | rfl | rfl | rfl⟩
    · obtain ⟨ret, h⟩ := exec_decodeRow_of_report .stalled (decodeStep_of_closed ha)
      exact ⟨ret, none, h⟩
    · exact wire [_] fun _ => rfl
    · exact wire [_] fun _ => rfl
    · exact wire [_, _] fun _ => rfl
    · exact wire [_, _] fun _ => rfl
    · exact wire [_] fun _ => rfl
    · exact wire [_] fun _ => rfl
    · exact wire [_, _] fun _ => rfl
    · exact wire (frameBytes a c p) fun _ => rfl
  · exact fun ha hq => exec_decodeRow_of_report .empty (decodeStep_of_empty ha hq)

end Sys2Proof.Machine
end

section
/-! PROOFS. ValidateFrame (R172, R173), and whole frames at a receiver at `RxInit` (R174 to R176): the context after the closing
flag meets the five requirements exactly when the frame is acceptable. -/

namespace Sys2Proof.Machine

/-! ## The five requirements -/

theorem fcsMatches_iff (rx : RxContext) :
    fcsMatches rx = true ↔
      rx.fcsFirst = fcsFirst (packetCrc rx.packet.address rx.packet.control rx.packet.payload) ∧
        rx.fcsSecond = fcsSecond (packetCrc rx.packet.address rx.packet.control rx.packet.payload) := by
  simp [fcsMatches]

theorem validateFrame_of_valid {st : Station} {s : State}
    (h : validationLabel s.par.n (s.rx st) st.address = none) (hv : (s.rx st).valid = true) :
    validateFrame st s = s.report .nothing none := by
  simp only [validateFrame, h, hv, if_true]
  rfl

theorem validateFrame_of_acceptable {st : Station} {s : State}
    (h : validationLabel s.par.n (s.rx st) st.address = none) (hv : (s.rx st).valid = false) :
    validateFrame st s =
      ((s.setRx st { s.rx st with valid := true }).setResult st
        { control := (s.rx st).packet.control, payload := (s.rx st).packet.payload }).report .nothing none := by
  simp only [validateFrame, h, hv, Bool.false_eq_true, if_false, State.setResult_setRx]
  rfl

/-- Settles O29: the label is that of the first requirement to fail, by the order of the tests in `validationLabel`. -/
theorem validateFrameRequiresAllFive : Obligations.ValidateFrameRequiresAllFive := by
  intro s st rx expected known crc sameFcs raises
  have hexp : expected = st.address := by cases st <;> rfl
  have hknown : knownCommand rx.packet.control = true ↔ known := knownCommand_iff _
  have hfcs : fcsMatches rx = true ↔ sameFcs := fcsMatches_iff _
  have raise (c : Condition) (h : validationLabel s.par.n rx st.address = some c) : raises c :=
    ⟨_, congrArg Host.Outcome.next (validateFrame_of_label h)⟩
  have accept (h1 : rx.assembled = true) (h2 : rx.pos = s.par.n + 4) (h3 : rx.packet.address = expected) (h4 : known)
      (h5 : sameFcs) : validationLabel s.par.n rx st.address = none :=
    validationLabel_eq_none.2 ⟨h1, h2, h3.trans hexp, hknown.2 h4, hfcs.2 h5⟩
  rw [hexp] at *
  refine ⟨fun h1 => raise _ ?_, fun h1 h2 => raise _ ?_, fun h1 h2 h3 => raise _ ?_, fun h1 h2 h3 h4 => raise _ ?_,
    fun h1 h2 h3 h4 h5 => raise _ ?_, fun h1 h2 h3 h4 h5 hv => ?_, fun h1 h2 h3 h4 h5 hv => ?_⟩
  · simp [validationLabel, h1]
  · simp [validationLabel, h1, h2]
  · simp [validationLabel, h1, h2, h3]
  · simp [validationLabel, h1, h2, h3, mt hknown.1 h4]
  · simp [validationLabel, h1, h2, h3, hknown.2 h4, mt hfcs.1 h5]
  · exact ⟨_, congrArg _ (validateFrame_of_acceptable (accept h1 h2 h3 h4 h5) hv)⟩
  · exact ⟨_, congrArg _ (validateFrame_of_valid (accept h1 h2 h3 h4 h5) hv)⟩

/-! ## Whole frames -/

/-- A frame, routed from `RxInit` and closed, meets the five requirements exactly when it is acceptable: its check bytes are right
by construction, and its length is counted (R172, R174). -/
theorem validationLabel_frame_eq_none_iff {n : Nat} {a c e : Byte} {p : List Byte} :
    validationLabel n (framedRx n (frameData a c p)) e = none ↔ a = e ∧ knownCommand c = true ∧ p.length = n := by
  constructor
  · intro h
    obtain ⟨-, hpos, ha, hc, -⟩ := validationLabel_eq_none.1 h
    have hp : p.length = n := by
      rw [framedRx_pos, frameData_length] at hpos
      omega
    rw [frameData, framedRx_frame _ _ _ _ hp] at ha hc
    exact ⟨ha, hc, hp⟩
  · rintro ⟨ha, hc, hp⟩
    rw [frameData, framedRx_frame _ _ _ _ hp]
    exact validationLabel_eq_none.2 ⟨rfl, rfl, ha, hc, (fcsMatches_iff _).2 ⟨rfl, rfl⟩⟩

section
variable {s : State} {st : Station} {a c : Byte} {p : List Byte} (hrx : s.rx st = rxInit s.par.n)
include hrx

/-- A frame's row, at a receive context at `RxInit`, is `ValidateFrame` on the data bytes routed and closed (R165). -/
theorem exec_frame_of_rxInit : ∃ ret label, exec (.frame st a c p) s =
    .next (validateFrame st ((s.setRx st (framedRx s.par.n (frameData a c p))).report ret label)) := by
  obtain ⟨ret, label, hd⟩ := deliverAll_framed st (frameData a c p) s hrx
  exact ⟨ret, label, congrArg _ hd⟩

theorem exec_frame_of_acceptable
    (h : validationLabel s.par.n (framedRx s.par.n (frameData a c p)) st.address = none) :
    exec (.frame st a c p) s =
      .next (((s.setRx st { framedRx s.par.n (frameData a c p) with valid := true }).setResult st
        { control := (framedRx s.par.n (frameData a c p)).packet.control
          payload := (framedRx s.par.n (frameData a c p)).packet.payload }).report .nothing none) := by
  obtain ⟨ret, label, hexec⟩ := exec_frame_of_rxInit (a := a) (c := c) (p := p) hrx
  rw [hexec, validateFrame_of_acceptable (by simpa using h) (by simp [framedRx_valid])]
  simp

theorem exec_frame_of_label {l : Condition}
    (h : validationLabel s.par.n (framedRx s.par.n (frameData a c p)) st.address = some l) :
    exec (.frame st a c p) s = .next ((s.setRx st (framedRx s.par.n (frameData a c p))).report .nothing (some l)) := by
  obtain ⟨ret, label, hexec⟩ := exec_frame_of_rxInit (a := a) (c := c) (p := p) hrx
  rw [hexec, validateFrame_of_label (by simpa using h), State.report_report]

end

/-- Settles O31: such a frame is acceptable, and `framedRx_frame` says what the context holds once it is closed. -/
theorem decodeOfEncodedFrameIsThePayload : Obligations.DecodeOfEncodedFrameIsThePayload := by
  intro s st c p _ hp hc hrx a crc
  have ha : a = st.address := by cases st <;> rfl
  have hok : validationLabel s.par.n (framedRx s.par.n (frameData a c p)) st.address = none :=
    validationLabel_frame_eq_none_iff.2 ⟨ha, (knownCommand_iff c).2 hc, hp⟩
  refine ⟨.nothing, (exec_frame_of_acceptable hrx hok).trans ?_⟩
  rw [frameData, framedRx_frame _ _ _ _ hp]
  rfl

/-- Settles O32: the closed context is valid exactly when no label is raised. -/
theorem frameIsValidExactlyWhenAcceptable : Obligations.FrameIsValidExactlyWhenAcceptable := by
  intro s st a c p _ hrx
  have hiff : validationLabel s.par.n (framedRx s.par.n (frameData a c p)) st.address = none ↔
      a = st.address ∧ (c = 0x01#8 ∨ c = 0x02#8) ∧ p.length = s.par.n :=
    validationLabel_frame_eq_none_iff.trans (and_congr_right fun _ => and_congr_left fun _ => knownCommand_iff c)
  cases hlabel : validationLabel s.par.n (framedRx s.par.n (frameData a c p)) st.address with
  | none =>
    refine ⟨_, exec_frame_of_acceptable hrx hlabel, ?_, ?_, ?_, ?_⟩
    · simp [framedRx_started]
    · simp [framedRx]
    · simpa using hiff.1 hlabel
    · simp
  | some l =>
    refine ⟨_, exec_frame_of_label hrx hlabel, ?_, ?_, ?_, ?_⟩
    · simp [framedRx_started]
    · simp [framedRx]
    · rw [← hiff]
      simp [framedRx_valid, hlabel]
    · simp

end Sys2Proof.Machine
end

section
/-! PROOFS. The host's port (R173, R252, R261, log 10): every instruction but EXPECT does the same whatever the port held, writes
the value and the label told afresh, and adds the same events behind those told before. EXPECT reads the events only (log 16). -/

namespace Sys2Proof.Machine

/-! ## Another port -/

/-- The state with another host's port. -/
def State.withHost (s : State) (h : HostPort) : State := { s with host := h }

/-- The state with other events told. -/
def State.withReady (s : State) (events : List ResultBuffer) : State := s.withHost { s.host with ready := events }

/-- The outcome with other events told. -/
def outcomeWithReady (events : List ResultBuffer) (o : Out) : Out := andThen o fun t => .next (t.withReady events)

section
variable (s : State) (h : HostPort) (events : List ResultBuffer) (st : Station)

@[simp] theorem State.withHost_setRx (x : RxContext) : (s.withHost h).setRx st x = (s.setRx st x).withHost h := by
  cases st <;> rfl
@[simp] theorem State.withHost_setResult (x : ResultBuffer) :
    (s.withHost h).setResult st x = (s.setResult st x).withHost h := by cases st <;> rfl
@[simp] theorem State.withHost_setQueue (q : Queue) (bs : List Byte) :
    (s.withHost h).setQueue q bs = (s.setQueue q bs).withHost h := by cases q <;> rfl
@[simp] theorem State.withHost_route (d : Byte) : (s.withHost h).route st d = (s.route st d).withHost h :=
  s.withHost_setRx h st _
@[simp] theorem State.withHost_report (ret : Ret) (label : Option Condition) :
    (s.withHost h).report ret label = (s.report ret label).withReady h.ready := rfl
@[simp] theorem State.withHost_quiet : (s.withHost h).quiet = s.quiet.withReady h.ready := rfl

@[simp] theorem State.withHost_emit (b : Byte) (tx : TxContext) :
    (s.withHost h).emit st b tx = (s.emit st b tx).withReady h.ready := by cases st <;> rfl

@[simp] theorem State.withHost_par : (s.withHost h).par = s.par := rfl
@[simp] theorem State.withHost_rx : (s.withHost h).rx st = s.rx st := rfl
@[simp] theorem State.withHost_tx : (s.withHost h).tx st = s.tx st := rfl
@[simp] theorem State.withHost_txPacket : (s.withHost h).txPacket st = s.txPacket st := rfl
@[simp] theorem State.withHost_queue (q : Queue) : (s.withHost h).queue q = s.queue q := rfl
@[simp] theorem State.withReady_ini : (s.withReady events).ini = s.ini := rfl
@[simp] theorem State.withReady_res : (s.withReady events).res = s.res := rfl

theorem tellArm_withReady (named : Bool) (o : Out) :
    tellArm named (outcomeWithReady events o) = outcomeWithReady events (tellArm named o) := by
  cases o <;> rfl

/-! ## The codec calls -/

theorem validateFrame_withHost : validateFrame st (s.withHost h) = (validateFrame st s).withReady h.ready := by
  cases hl : validationLabel s.par.n (s.rx st) st.address with
  | some label =>
    rw [validateFrame_of_label hl, validateFrame_of_label (s := s.withHost h) hl]
    rfl
  | none =>
    cases hv : (s.rx st).valid with
    | true =>
      rw [validateFrame_of_valid hl hv, validateFrame_of_valid (s := s.withHost h) hl hv]
      rfl
    | false =>
      rw [validateFrame_of_acceptable hl hv, validateFrame_of_acceptable (s := s.withHost h) hl hv, State.withHost_setRx,
        State.withHost_setResult]
      rfl

theorem consume_withHost (b : Byte) : consume st b (s.withHost h) = (consume st b s).withReady h.ready := by
  simp only [consume, State.withHost_rx]
  cases classify (s.rx st) b <;> simp [consumeAs, validateFrame_withHost]

theorem deliver_withHost (b : Byte) : deliver st b (s.withHost h) = (deliver st b s).withReady h.ready := by
  simp only [deliver, State.withHost_rx, consume_withHost]
  split_ifs <;> rfl

/-- The first byte already writes the value and the label afresh. -/
theorem deliverAll_withHost (b : Byte) (bs : List Byte) :
    deliverAll st (b :: bs) (s.withHost h) = (deliverAll st (b :: bs) s).withReady h.ready := by
  induction bs generalizing b s h with
  | nil => exact deliver_withHost s h st b
  | cons b' bs ih =>
    rw [deliverAll, deliver_withHost]
    exact ih (deliver st b s) _ b'

theorem decodeStep_withHost : decodeStep st (s.withHost h) = (decodeStep st s).withReady h.ready := by
  cases ha : (s.rx st).assembled with
  | true =>
    rw [decodeStep_of_closed ha, decodeStep_of_closed (s := s.withHost h) ha]
    rfl
  | false =>
    cases hq : s.queue st.inQueue with
    | nil =>
      rw [decodeStep_of_empty ha hq, decodeStep_of_empty (s := s.withHost h) ha hq]
      rfl
    | cons b rest =>
      rw [decodeStep_of_cons ha hq, decodeStep_of_cons (s := s.withHost h) ha hq, State.withHost_setQueue, consume_withHost]

theorem sendLogical_withHost (b : Byte) :
    sendLogical st b (s.withHost h) = (sendLogical st b s).withReady h.ready := by
  cases hb : needsStuffing b <;> simp [sendLogical, hb]

theorem sendStage_withHost : sendStage st (s.withHost h) = outcomeWithReady h.ready (sendStage st s) := by
  simp only [sendStage, State.withHost_tx, State.withHost_txPacket, sendLogical_withHost]
  cases logicalByte (s.tx st) (s.txPacket st) <;> rfl

theorem encodeStep_withHost : encodeStep st (s.withHost h) = outcomeWithReady h.ready (encodeStep st s) := by
  have hselect : selectEncode st (s.withHost h) = selectEncode st s := rfl
  simp only [encodeStep, hselect]
  cases selectEncode st s with
  | done | backpressure => rfl
  | escape2 | startFlag | endFlag => simp [sendEscape2, sendFlag, outcomeWithReady, andThen]
  | address | control | payload | fcsHigh | fcsLow => exact sendStage_withHost s h st

/-! ## The activations -/

theorem initiatorTransmit_withHost :
    initiatorTransmit (s.withHost h) = outcomeWithReady h.ready (initiatorTransmit s) := by
  simp only [initiatorTransmit, encodeStep_withHost]
  cases encodeStep .initiator s with
  | next e =>
    by_cases hdone : e.ini.link.tx.stage = .done
    · simp only [outcomeWithReady, andThen, State.withReady_ini, hdone, if_true]
      rfl
    · simp [outcomeWithReady, andThen, hdone]
  | fault | refused => rfl

theorem initiatorReceive_withHost : initiatorReceive (s.withHost h) = (initiatorReceive s).withReady h.ready := by
  simp only [initiatorReceive, decodeStep_withHost, State.withReady_ini]
  split_ifs <;> rfl

theorem selectInitiator_withHost : selectInitiator (s.withHost h) = selectInitiator s := by
  simp only [selectInitiator, decodeStep_withHost]
  rfl

theorem responderReplySend_withHost :
    responderReplySend (s.withHost h) = outcomeWithReady h.ready (responderReplySend s) := by
  simp only [responderReplySend, encodeStep_withHost]
  cases encodeStep .responder s with
  | next e =>
    by_cases hdone : e.res.link.tx.stage = .done
    · simp only [outcomeWithReady, andThen, State.withReady_res, hdone, if_true]
      rfl
    · simp [outcomeWithReady, andThen, hdone]
  | fault | refused => rfl

theorem responderWaitCommand_withHost :
    responderWaitCommand (s.withHost h) = (responderWaitCommand s).withReady h.ready := by
  simp only [responderWaitCommand, decodeStep_withHost, State.withReady_res]
  split_ifs <;> rfl

theorem responderReceive_withHost : responderReceive (s.withHost h) = (responderReceive s).withReady h.ready := by
  simp only [responderReceive, decodeStep_withHost, State.withReady_res]
  split_ifs <;> rfl

theorem selectResponder_withHost : selectResponder (s.withHost h) = selectResponder s := by
  simp only [selectResponder, decodeStep_withHost]
  rfl

end

/-! ## What an operation tells -/

/-- An operation does the same whatever the port held, writes the value and the label told afresh, and adds some events, the same
ones whatever the port held. -/
def Tells (op : State → Out) : Prop :=
  ∀ s, ∃ events, ∀ h, op (s.withHost h) = outcomeWithReady (h.ready ++ events) (op s)

theorem tells_of_no_events {op : State → Out} (hop : ∀ s h, op (s.withHost h) = outcomeWithReady h.ready (op s)) : Tells op :=
  fun s => ⟨[], fun h => by rw [List.append_nil, hop]⟩

theorem tells_of_next {f : State → State} (hf : ∀ s h, f (s.withHost h) = (f s).withReady h.ready) :
    Tells fun s => .next (f s) :=
  tells_of_no_events fun s h => congrArg Host.Outcome.next (hf s h)

/-- A row adds the events of the operation it calls. -/
theorem Tells.tellArm {op : State → Out} {named : State → Bool} (hop : Tells op)
    (hnamed : ∀ s h, named (s.withHost h) = named s) : Tells fun s => Machine.tellArm (named s) (op s) := by
  intro s
  obtain ⟨events, hev⟩ := hop s
  exact ⟨events, fun h => (congrArg₂ Machine.tellArm (hnamed s h) (hev h)).trans (tellArm_withReady ..)⟩

theorem tells_deliver (st : Station) (b : Byte) : Tells fun s => .next (deliver st b s) :=
  tells_of_next fun s h => deliver_withHost s h st b

theorem tells_deliverAll (st : Station) (b : Byte) (bs : List Byte) : Tells fun s => .next (deliverAll st (b :: bs) s) :=
  tells_of_next fun s h => deliverAll_withHost s h st b bs

theorem tells_routeTold (st : Station) (d : Byte) {told : State → Ret} (htold : ∀ s h, told (s.withHost h) = told s) :
    Tells fun s => routeTold st d (told s) s :=
  tells_of_no_events fun s h => by rw [htold, routeTold, State.withHost_route]; rfl

theorem tells_decodeArm (arm : DecodeArm) (st : Station) : Tells (decodeArm arm st) :=
  Tells.tellArm (tells_of_next fun s h => decodeStep_withHost s h st) fun _ _ => rfl

theorem tells_encodeArm (arm : EncodeArm) (st : Station) : Tells (encodeArm arm st) :=
  Tells.tellArm (tells_of_no_events fun s h => encodeStep_withHost s h st) fun _ _ => rfl

/-- Process adds the event ResultReady, no other arm adds any (R196). -/
theorem tells_initiatorStep : Tells initiatorStep := by
  intro s
  by_cases hs : selectInitiator s = .process
  · refine ⟨[s.ini.link.result], fun h => ?_⟩
    simp only [initiatorStep, selectInitiator_withHost, hs]
    rfl
  · refine ⟨[], fun h => ?_⟩
    simp only [initiatorStep, selectInitiator_withHost, List.append_nil]
    cases harm : selectInitiator s with
    | prepare => rfl
    | transmit => exact initiatorTransmit_withHost s h
    | awaitStart | awaitTimeout =>
      simp only [initiatorAwaitStart, initiatorAwaitTimeout, decodeStep_withHost]
      rfl
    | awaitIdle => exact congrArg _ (decodeStep_withHost s h .initiator)
    | receive => exact congrArg _ (initiatorReceive_withHost s h)
    | process => exact absurd harm hs

theorem tells_responderStep : Tells responderStep :=
  tells_of_no_events fun s h => by
    simp only [responderStep, selectResponder_withHost]
    cases selectResponder s with
    | waitCommand => exact congrArg _ (responderWaitCommand_withHost s h)
    | receive => exact congrArg _ (responderReceive_withHost s h)
    | process => rfl
    | replyPoll => exact congrArg _ (decodeStep_withHost s h .responder)
    | replyPreempt =>
      simp only [responderReplyPreempt, decodeStep_withHost]
      rfl
    | replySend => exact responderReplySend_withHost s h

theorem tells_externalWrite (q : Queue) (bs : List Byte) : Tells (externalWrite q bs) :=
  tells_of_no_events fun s h => by
    by_cases hroom : (s.queue q).length + bs.length ≤ s.capacity q
    · rw [externalWrite_of_room hroom, externalWrite_of_room (s := s.withHost h) hroom, State.withHost_setQueue]
      rfl
    · rw [externalWrite_of_no_room (not_le.1 hroom), externalWrite_of_no_room (s := s.withHost h) (not_le.1 hroom)]
      rfl

theorem tells_externalRead (q : Queue) : Tells (externalRead q) :=
  tells_of_no_events fun s h => by
    cases hq : s.queue q with
    | nil =>
      rw [externalRead_of_nil hq, externalRead_of_nil (s := s.withHost h) hq]
      rfl
    | cons b rest =>
      rw [externalRead_of_cons hq, externalRead_of_cons (s := s.withHost h) hq, State.withHost_setQueue]
      rfl

theorem tells_scriptParam (name : ParamName) (v : Nat) : Tells (exec (.scriptParam name v)) :=
  tells_of_no_events fun s h => by
    have hset : setParam name v (s.withHost h) = (setParam name v s).withHost h := by cases name <;> rfl
    by_cases ha : AcceptsParam name v s
    · rw [exec_scriptParam_of_accepts ha, exec_scriptParam_of_accepts (s := s.withHost h) ha, hset]
      rfl
    · rw [exec_scriptParam_of_not_accepts ha, exec_scriptParam_of_not_accepts (s := s.withHost h) ha]
      rfl

theorem tells_scriptLoop (count lines : Nat) : Tells (exec (.scriptLoop count lines)) :=
  tells_of_no_events fun s h => by
    show execScriptLoop count lines (s.withHost h) = outcomeWithReady h.ready (execScriptLoop count lines s)
    by_cases hshort : s.prog.length < lines
    · rw [execScriptLoop, execScriptLoop, if_pos hshort, if_pos (show (s.withHost h).prog.length < lines from hshort)]
      rfl
    · rw [execScriptLoop, execScriptLoop, if_neg hshort, if_neg (show ¬(s.withHost h).prog.length < lines from hshort)]
      rfl

/-! ## The instructions -/

/-- Every instruction but EXPECT, by the operation it calls; most do nothing but update registers and tell. -/
theorem tells_exec {i : Instr} (hi : ∀ p, i ≠ .scriptExpect p) : Tells (exec i) := by
  cases i with
  | flag | escape | data | escaped => exact tells_deliver _ _
  | escFlag | escEscape | escOther | frame => exact tells_deliverAll _ _ _
  | request => exact tells_of_next fun s h => deliverAll_withHost s h ..
  | reply => exact tells_of_next fun s h => deliverAll_withHost s h ..
  | addrInitiator | addrResponder | addrOther | cmdComplement | cmdReverse | cmdReserved | posAddress | posControl | posPayload
  | posFcsFirst | posFcsSecond | posOverflow => exact tells_routeTold _ _ fun _ _ => rfl
  | fcs | stageStartFlag | stageAddress | stageControl | stagePayload | stageFcsHigh | stageFcsLow | stageEndFlag | stageDone
  | istatePrepare | istateTransmit | istateAwaitReply | istateReceive | istateProcess | rstateWaitCommand | rstateReceive
  | rstateProcess | rstateReply | crc16 | qIsFull | qIsEmpty | timerNow | timerSetDeadline | timerIsExpired | cmdProcess
  | cmdProcessComplement | cmdProcessReverse | cmdProcessUnknown | reset | scriptReset | scriptCfg | scriptClock | scriptTick =>
    exact tells_of_no_events fun _ _ => rfl
  | encodeDone | encodeBackpressure | encodeStartFlag | encodeEndFlag | encodeEscape2 | encodeAddress | encodeControl
  | encodePayload | encodeFcsHigh | encodeFcsLow => exact tells_encodeArm _ _
  | decodeStalled | decodeEmpty | decodeUnescape | decodeEscape | decodeFlagOpen | decodeFlagClose | decodeData =>
    exact tells_decodeArm _ _
  | advance st | txInit st => exact tells_of_no_events fun _ _ => by cases st <;> rfl
  | route st | rxInit st | rxOpen st => exact tells_of_no_events fun _ _ => by cases st <;> rfl
  | validateFrame st => exact tells_of_next fun s h => validateFrame_withHost s h st
  | initiatorPrepare | initiatorTransmit | initiatorAwaitStart | initiatorAwaitTimeout | initiatorReceive | initiatorProcess =>
    exact tells_initiatorStep.tellArm fun s h => by rw [selectInitiator_withHost]
  | responderWaitCommand | responderReceive | responderProcess | responderReplyPoll | responderReplyPreempt
  | responderReplySend => exact tells_responderStep.tellArm fun s h => by rw [selectResponder_withHost]
  | qReset q => exact tells_of_no_events fun _ _ => by cases q <;> rfl
  | qWriteByte | scriptPush => exact tells_externalWrite _ _
  | qReadByte | scriptPop => exact tells_externalRead _
  | scriptParam => exact tells_scriptParam _ _
  | scriptStepI => exact tells_initiatorStep
  | scriptStepR => exact tells_responderStep
  | scriptLoop => exact tells_scriptLoop _ _
  | scriptExpect p => exact absurd rfl (hi p)

/-- Of the port a register dump reads the events only (R252). -/
theorem readReg_withHost {s : State} {h : HostPort} (hready : h.ready = s.host.ready) (r : Reg) :
    readReg (s.withHost h) r = readReg s r := by
  obtain ⟨ret, label, events⟩ := h
  obtain rfl : events = s.host.ready := hready
  rfl

theorem holds_withHost {s : State} {h : HostPort} (hready : h.ready = s.host.ready) (p : Pred) :
    holds (s.withHost h) p = holds s p := by
  induction p with
  | always => rfl
  | eq r v | lt r v => simp only [holds, readReg_withHost hready]
  | neg p ih => rw [holds, ih, holds]
  | conj p q ihp ihq | disj p q ihp ihq => rw [holds, ihp, ihq, holds]

/-- Settles O55: every instruction but EXPECT only tells, and EXPECT tells whether a predicate on the events holds. -/
theorem onlyExpectReadsTheHostPort : Obligations.OnlyExpectReadsTheHostPort := by
  intro i s t h ht
  by_cases hi : ∃ p, i = .scriptExpect p
  · obtain ⟨p, rfl⟩ := hi
    have hnext : .next (s.report (.bool (holds s p)) none) = Host.Outcome.next t := ht
    obtain rfl := Host.Outcome.next.inj hnext
    refine ⟨⟨_, rfl⟩, fun hready => ?_, fun hne => absurd rfl (hne p)⟩
    show Host.Outcome.next ((s.withHost h).report (.bool (holds (s.withHost h) p)) none) = _
    rw [holds_withHost hready, State.withHost_report, hready]
    rfl
  · obtain ⟨events, hev⟩ := tells_exec (fun p hp => hi ⟨p, hp⟩) s
    have hnext (h' : HostPort) : exec i (s.withHost h') = .next (t.withReady (h'.ready ++ events)) := by rw [hev, ht]; rfl
    have hown : t = t.withReady (s.host.ready ++ events) := Host.Outcome.next.inj (ht.symm.trans (hnext s.host))
    refine ⟨⟨_, hnext h⟩, fun hready => ?_, fun _ => ⟨events, congrArg (fun u => u.host.ready) hown, hnext h⟩⟩
    exact (hnext h).trans (congrArg _ (by rw [hready, ← hown]))

end Sys2Proof.Machine
end

section
/-! PROOFS. `InitiatorStep` arm by arm (R191 to R197): what the activation and its row do under an arm's condition, when a deadline
has expired (R241), and where the event ResultReady comes from (R196, R252). -/

namespace Sys2Proof.Machine

/-! ## The activation under an arm's condition -/

/-- What an activation of the initiator does once its arm is selected (R199). -/
def InitiatorArm.run (s : State) : InitiatorArm → Out
  | .prepare => .next (initiatorPrepare s)
  | .transmit => initiatorTransmit s
  | .awaitStart => .next (initiatorAwaitStart s)
  | .awaitTimeout => .next (initiatorAwaitTimeout s)
  | .awaitIdle => .next (decodeStep .initiator s)
  | .receive => .next (initiatorReceive s)
  | .process => .next (initiatorProcess s)

theorem initiatorStep_of_rowCondition {arm : InitiatorArm} {s : State} (h : arm.RowCondition s) :
    initiatorStep s = arm.run s := by
  have hsel : selectInitiator s = arm := (selectInitiator_eq_iff s arm).2 h
  unfold initiatorStep
  rw [hsel]
  cases arm <;> rfl

theorem eq_of_initiatorStep {arm : InitiatorArm} {s t u : State} (h : initiatorStep s = .next t) (harm : arm.RowCondition s)
    (hrun : arm.run s = .next u) : t = u :=
  Host.Outcome.next.inj (h.symm.trans ((initiatorStep_of_rowCondition harm).trans hrun))

/-- The row of an arm whose condition holds ends as the arm does, with the arm's label. -/
theorem exec_initiatorRow_of_rowCondition {arm : InitiatorArm} {s t : State} (hmem : arm ∈ initiatorArms)
    (harm : arm.RowCondition s) (hrun : arm.run s = .next t) :
    exec (initiatorRow arm) s = .next (t.report (.bool true) t.host.label) := by
  have hstep : exec .scriptStepI s = .next t := (initiatorStep_of_rowCondition harm).trans hrun
  rw [exec_initiatorRow hmem, hstep, decide_eq_true ((selectInitiator_eq_iff s arm).2 harm), tellArm_next]

/-! ## Transmit -/

/-- An `EncodeStep` leaves the clock and the parameters alone, so the deadline armed after it is that of this activation. -/
theorem setDeadline_encodeStep {s e : State} (he : encodeStep .initiator s = .next e) :
    setDeadline e e.par.replyTimeoutMs = setDeadline s s.par.replyTimeoutMs := by
  obtain ⟨sent, tx, label, rfl, -⟩ := encodeStep_initiator he
  rfl

theorem encodeStep_ini_state {s e : State} (he : encodeStep .initiator s = .next e) : e.ini.state = s.ini.state := by
  obtain ⟨sent, tx, label, rfl, -⟩ := encodeStep_initiator he
  rfl

theorem encodeStep_ini_deadline {s e : State} (he : encodeStep .initiator s = .next e) :
    e.ini.deadline = s.ini.deadline := by
  obtain ⟨sent, tx, label, rfl, -⟩ := encodeStep_initiator he
  rfl

theorem initiatorTransmit_of_not_done {s e : State} (he : encodeStep .initiator s = .next e)
    (hdone : e.ini.link.tx.stage ≠ .done) : initiatorTransmit s = .next e := by
  simp only [initiatorTransmit, he, andThen, if_neg hdone]

theorem initiatorTransmit_of_done {s e : State} (he : encodeStep .initiator s = .next e)
    (hdone : e.ini.link.tx.stage = .done) :
    initiatorTransmit s = .next { e with
      ini := { e.ini with state := .awaitReply, deadline := setDeadline s s.par.replyTimeoutMs } } := by
  simp only [initiatorTransmit, he, andThen, if_pos hdone, setDeadline_encodeStep he]

theorem encodeStep_of_initiatorTransmit {s t : State} (h : initiatorTransmit s = .next t) :
    ∃ e, encodeStep .initiator s = .next e := by
  unfold initiatorTransmit at h
  cases he : encodeStep .initiator s with
  | next e => exact ⟨e, rfl⟩
  | fault | refused => rw [he] at h; cases h

/-- Where Transmit ends, the stage it ends in tells whether the reply is now awaited (R192). -/
theorem initiatorTransmit_next {s t : State} (h : initiatorTransmit s = .next t) :
    (t.ini.link.tx.stage = .done → t.ini.state = .awaitReply ∧ t.ini.deadline = setDeadline s s.par.replyTimeoutMs) ∧
      (t.ini.link.tx.stage ≠ .done → t.ini.state = s.ini.state ∧ t.ini.deadline = s.ini.deadline) := by
  obtain ⟨e, he⟩ := encodeStep_of_initiatorTransmit h
  by_cases hdone : e.ini.link.tx.stage = .done
  · obtain rfl := Host.Outcome.next.inj ((initiatorTransmit_of_done he hdone).symm.trans h)
    exact ⟨fun _ => ⟨rfl, rfl⟩, fun hne => absurd hdone hne⟩
  · obtain rfl := Host.Outcome.next.inj ((initiatorTransmit_of_not_done he hdone).symm.trans h)
    exact ⟨fun heq => absurd heq hdone, fun _ => ⟨encodeStep_ini_state he, encodeStep_ini_deadline he⟩⟩

/-! ## AwaitReply -/

/-- The unsigned difference of R241 is the difference of integers, reduced to the clock's width. -/
theorem elapsed_eq_emod (w now start : Nat) : (elapsed w now start : Int) = ((now : Int) - start) % 2 ^ w := by
  have hle : start % 2 ^ w ≤ 2 ^ w := (Nat.mod_lt start (Nat.two_pow_pos w)).le
  have hdiff : (now : Int) + (2 ^ w - (start : Int) % 2 ^ w) = (now - start) + 2 ^ w * (1 + (start : Int) / 2 ^ w) := by
    rw [Int.emod_def]
    ring
  rw [elapsed]
  push_cast [hle]
  rw [hdiff, Int.add_mul_emod_self_left]

theorem isExpired_iff (s : State) (dl : Deadline) :
    isExpired s dl = true ↔ (dl.duration : Int) ≤ ((s.clock : Int) - (dl.tStart : Int)) % (2 : Int) ^ s.par.clockW := by
  rw [← elapsed_eq_emod, Int.ofNat_le, isExpired, decide_eq_true_iff]

theorem initiatorAwaitStart_eq (s : State) :
    initiatorAwaitStart s = { decodeStep .initiator s with
      ini := { (decodeStep .initiator s).ini with
        state := .receive, deadline := { s.ini.deadline with armed := false } } } := by
  rw [← decodeStep_ini_deadline .initiator s]
  rfl

theorem initiatorAwaitTimeout_eq (s : State) :
    initiatorAwaitTimeout s = State.report { decodeStep .initiator s with
      ini := { (decodeStep .initiator s).ini with
        state := .prepare, deadline := { s.ini.deadline with armed := false } } } .nothing (some .replyTimeout) := by
  rw [← decodeStep_ini_deadline .initiator s]
  rfl

/-! ## Receive -/

section
variable {s : State}

theorem initiatorReceive_of_open (hopen : (decodeStep .initiator s).ini.link.rx.assembled = false) :
    initiatorReceive s = decodeStep .initiator s := by
  simp [initiatorReceive, hopen]

theorem initiatorReceive_of_valid (hclosed : (decodeStep .initiator s).ini.link.rx.assembled = true)
    (hvalid : (decodeStep .initiator s).ini.link.rx.valid = true) :
    initiatorReceive s = (decodeStep .initiator s).setIState .process := by
  simp [initiatorReceive, hclosed, hvalid]

theorem initiatorReceive_of_invalid (hclosed : (decodeStep .initiator s).ini.link.rx.assembled = true)
    (hvalid : (decodeStep .initiator s).ini.link.rx.valid = false) :
    initiatorReceive s = { decodeStep .initiator s with
      ini := { (decodeStep .initiator s).ini with
        state := .prepare, link := { (decodeStep .initiator s).ini.link with rx := rxInit s.par.n } } } := by
  rw [← decodeStep_par .initiator s]
  simp only [initiatorReceive, hclosed, hvalid, if_true, Bool.false_eq_true, if_false]
  rfl

end

/-! ## The arms -/

/-- Settles O41: `initiatorPrepare` assigns the packet, `TxInit` of its CRC and `RxInit`. -/
theorem prepareBuildsTheRequest : Obligations.PrepareBuildsTheRequest :=
  fun s hs => ⟨_, _, exec_initiatorRow_of_rowCondition (arm := .prepare) (t := initiatorPrepare s) (by decide) hs rfl⟩

/-- Settles O42: the `EncodeStep` completes, and the test for Done follows it. -/
theorem transmitArmsTheDeadlineWhenDone : Obligations.TransmitArmsTheDeadlineWhenDone := by
  intro s hs hcursor
  obtain ⟨e, he⟩ := encodeStep_completes .initiator s hcursor
  have hrow {t : State} (hrun : initiatorTransmit s = .next t) :=
    exec_initiatorRow_of_rowCondition (arm := .transmit) (by decide) hs hrun
  exact ⟨e, he, fun hdone => ⟨_, hrow (initiatorTransmit_of_not_done he hdone)⟩,
    fun hdone => ⟨_, _, hrow (initiatorTransmit_of_done he hdone)⟩⟩

/-- Settles O43: the two tests after the `DecodeStep` select the arm, frame start first. -/
theorem awaitReplyStartsOrTimesOut : Obligations.AwaitReplyStartsOrTimesOut := by
  intro s hs d begun expired
  have hexpired : isExpired s s.ini.deadline = true ↔ expired := isExpired_iff s s.ini.deadline
  refine ⟨fun hb => ?_, fun hb hx => ?_, fun hb hx => ?_⟩
  · exact ⟨_, _, exec_initiatorRow_of_rowCondition (arm := .awaitStart) (by decide) ⟨hs, hb⟩
      (congrArg _ (initiatorAwaitStart_eq s))⟩
  · exact ⟨_, exec_initiatorRow_of_rowCondition (arm := .awaitTimeout) (by decide) ⟨hs, hb, hexpired.2 hx⟩
      (congrArg _ (initiatorAwaitTimeout_eq s))⟩
  · exact initiatorStep_of_rowCondition (arm := .awaitIdle) ⟨hs, hb, Bool.eq_false_iff.2 (mt hexpired.1 hx)⟩

/-- Settles O44: the frame is open, closed and valid, or closed and abandoned after the `DecodeStep`. -/
theorem initiatorReceiveWaitsForTheFrame : Obligations.InitiatorReceiveWaitsForTheFrame := by
  intro s hs d goes
  have hrow {t : State} (hrun : initiatorReceive s = t) :=
    exec_initiatorRow_of_rowCondition (arm := .receive) (by decide) hs (congrArg _ hrun)
  exact ⟨fun hopen => ⟨_, hrow (initiatorReceive_of_open hopen)⟩,
    fun hclosed hvalid => ⟨_, hrow (initiatorReceive_of_valid hclosed hvalid)⟩,
    fun hclosed hvalid => ⟨_, hrow (initiatorReceive_of_invalid hclosed hvalid)⟩⟩

/-- Settles O45: `initiatorProcess` adds the event and writes `I.state`. -/
theorem initiatorProcessEmitsTheResult : Obligations.InitiatorProcessEmitsTheResult :=
  fun s hs => ⟨_, _, exec_initiatorRow_of_rowCondition (arm := .process) (t := initiatorProcess s) (by decide) hs rfl⟩

/-! ## The events told -/

/-- An operation tells no event. -/
def KeepsReady (op : State → Out) : Prop := ∀ s t, op s = .next t → t.host.ready = s.host.ready

theorem keepsReady_of_next {f : State → State} (hf : ∀ s, (f s).host.ready = s.host.ready) : KeepsReady fun s => .next (f s) := by
  intro s t ht
  obtain rfl := Host.Outcome.next.inj ht
  exact hf s

theorem KeepsReady.tellArm {op : State → Out} (hop : KeepsReady op) (named : State → Bool) :
    KeepsReady fun s => Machine.tellArm (named s) (op s) := by
  intro s t ht
  obtain ⟨u, hu, rfl⟩ := next_of_tellArm ht
  exact hop s u hu

@[simp] theorem validateFrame_ready (st : Station) (s : State) : (validateFrame st s).host.ready = s.host.ready := by
  rcases validateFrame_cases st s with ⟨c, -, h⟩ | ⟨-, -, h⟩ | ⟨-, -, h⟩ <;> simp [h]

@[simp] theorem deliverAll_ready (st : Station) (bs : List Byte) (s : State) :
    (deliverAll st bs s).host.ready = s.host.ready := by
  obtain ⟨rx, result, ret, label, h⟩ := deliverAll_shape st bs s
  simp [h]

@[simp] theorem decodeStep_ready (st : Station) (s : State) : (decodeStep st s).host.ready = s.host.ready := by
  obtain ⟨bs, rx, result, label, h, -⟩ := decodeStep_shape st s
  simp [h]

theorem keepsReady_deliverAll (st : Station) (bs : List Byte) : KeepsReady fun s => .next (deliverAll st bs s) :=
  keepsReady_of_next (deliverAll_ready st bs)

theorem keepsReady_routeTold (st : Station) (d : Byte) (told : State → Ret) :
    KeepsReady fun s => routeTold st d (told s) s :=
  keepsReady_of_next fun s => by simp

theorem keepsReady_encodeStep (st : Station) : KeepsReady (encodeStep st) := by
  intro s e he
  obtain ⟨sent, tx, label, rfl, -⟩ := encodeStep_shape he
  simp

theorem keepsReady_encodeArm (arm : EncodeArm) (st : Station) : KeepsReady (encodeArm arm st) :=
  (keepsReady_encodeStep st).tellArm _

theorem keepsReady_decodeArm (arm : DecodeArm) (st : Station) : KeepsReady (decodeArm arm st) :=
  (keepsReady_of_next (decodeStep_ready st)).tellArm _

theorem keepsReady_responderStep : KeepsReady responderStep := by
  intro s t ht
  have hd := decodeStep_ready .responder s
  rcases responderStep_cases ht with ⟨-, rfl⟩ | ⟨-, rfl⟩ | ⟨-, rfl⟩ | ⟨-, -, -, rfl⟩ | ⟨-, -, -, rfl⟩ |
    ⟨e, -, -, he, ⟨-, rfl⟩ | ⟨-, rfl⟩⟩
  · rcases responderWaitCommand_cases s with ⟨-, hr⟩ | ⟨-, hr⟩ <;> exact hr ▸ hd
  · rcases responderReceive_cases s with ⟨-, hr⟩ | ⟨-, hr⟩ | hr <;> exact hr ▸ hd
  · rfl
  · exact hd
  · exact hd
  · exact keepsReady_encodeStep .responder s t he
  · exact keepsReady_encodeStep .responder s e he

theorem keepsReady_externalWrite (q : Queue) (bs : List Byte) : KeepsReady (externalWrite q bs) := by
  intro s t ht
  obtain ⟨-, rfl⟩ := externalWrite_next ht
  simp

theorem keepsReady_externalRead (q : Queue) : KeepsReady (externalRead q) := by
  intro s t ht
  obtain ⟨b, rest, -, rfl⟩ := externalRead_next ht
  simp

@[simp] theorem setParam_host (name : ParamName) (v : Nat) (s : State) : (setParam name v s).host = s.host := by
  cases name <;> rfl

theorem keepsReady_scriptParam (name : ParamName) (v : Nat) : KeepsReady (exec (.scriptParam name v)) := by
  intro s t ht
  by_cases ha : AcceptsParam name v s
  · obtain rfl := Host.Outcome.next.inj ((exec_scriptParam_of_accepts ha).symm.trans ht)
    simp
  · cases (exec_scriptParam_of_not_accepts ha).symm.trans ht

theorem keepsReady_scriptLoop (count lines : Nat) : KeepsReady (exec (.scriptLoop count lines)) := by
  intro s t ht
  obtain ⟨-, rfl⟩ := scriptLoop_next ht
  rfl

/-- The instructions that are an activation of the initiator: the line STEP I and the rows of the arms (log 11). -/
def initiatorActivations : List Instr := .scriptStepI :: initiatorArms.map initiatorRow

/-- Every instruction that is no activation of the initiator, by the operation it calls. -/
theorem keepsReady_exec {i : Instr} (hi : i ∉ initiatorActivations) : KeepsReady (exec i) := by
  cases i with
  | flag st | escape st | data st | escaped st => exact keepsReady_deliverAll st [_]
  | escFlag | escEscape | escOther | frame => exact keepsReady_deliverAll _ _
  | request | reply => exact keepsReady_of_next fun s => deliverAll_ready _ _ s
  | addrInitiator | addrResponder | addrOther | cmdComplement | cmdReverse | cmdReserved | posAddress | posControl | posPayload
  | posFcsFirst | posFcsSecond | posOverflow => exact keepsReady_routeTold _ _ _
  | fcs | stageStartFlag | stageAddress | stageControl | stagePayload | stageFcsHigh | stageFcsLow | stageEndFlag | stageDone
  | istatePrepare | istateTransmit | istateAwaitReply | istateReceive | istateProcess | rstateWaitCommand | rstateReceive
  | rstateProcess | rstateReply | crc16 | qIsFull | qIsEmpty | timerNow | timerSetDeadline | timerIsExpired | cmdProcess
  | cmdProcessComplement | cmdProcessReverse | cmdProcessUnknown | reset | scriptReset | scriptCfg | scriptClock | scriptTick
  | scriptExpect => exact keepsReady_of_next fun _ => rfl
  | encodeDone | encodeBackpressure | encodeStartFlag | encodeEndFlag | encodeEscape2 | encodeAddress | encodeControl
  | encodePayload | encodeFcsHigh | encodeFcsLow => exact keepsReady_encodeArm _ _
  | decodeStalled | decodeEmpty | decodeUnescape | decodeEscape | decodeFlagOpen | decodeFlagClose | decodeData =>
    exact keepsReady_decodeArm _ _
  | advance | txInit | route | rxInit | rxOpen | qReset => exact keepsReady_of_next fun _ => by simp
  | validateFrame st => exact keepsReady_of_next (validateFrame_ready st)
  | initiatorPrepare | initiatorTransmit | initiatorAwaitStart | initiatorAwaitTimeout | initiatorReceive | initiatorProcess
  | scriptStepI => exact absurd (by decide) hi
  | responderWaitCommand | responderReceive | responderProcess | responderReplyPoll | responderReplyPreempt
  | responderReplySend => exact keepsReady_responderStep.tellArm _
  | qWriteByte | scriptPush => exact keepsReady_externalWrite _ _
  | qReadByte | scriptPop => exact keepsReady_externalRead _
  | scriptParam => exact keepsReady_scriptParam _ _
  | scriptStepR => exact keepsReady_responderStep
  | scriptLoop => exact keepsReady_scriptLoop _ _

/-- Of the initiator's arms only that of Process tells an event (R196). -/
theorem initiatorStep_ready {s t : State} (h : initiatorStep s = .next t) :
    (s.ini.state = .process ∧ t.host.ready = s.host.ready ++ [s.ini.link.result]) ∨
      (s.ini.state ≠ .process ∧ t.host.ready = s.host.ready) := by
  by_cases hs : s.ini.state = .process
  · obtain rfl := eq_of_initiatorStep (arm := .process) h hs rfl
    exact .inl ⟨hs, rfl⟩
  refine .inr ⟨hs, ?_⟩
  have hd := decodeStep_ready .initiator s
  rcases initiatorStep_cases h with ⟨-, rfl⟩ | ⟨e, -, he, ⟨-, rfl⟩ | ⟨-, rfl⟩⟩ | ⟨-, -, rfl⟩ | ⟨-, -, -, rfl⟩ |
    ⟨-, -, -, rfl⟩ | ⟨-, rfl⟩ | ⟨hs', -⟩
  · rfl
  · exact keepsReady_encodeStep .initiator s t he
  · exact keepsReady_encodeStep .initiator s e he
  · exact hd
  · exact hd
  · exact hd
  · rcases initiatorReceive_cases s with ⟨-, hr⟩ | ⟨-, hr⟩ | hr <;> exact hr ▸ hd
  · exact absurd hs' hs

/-- An activation of the initiator ends as `InitiatorStep` does, but for what the host is told of the arm. -/
theorem initiatorStep_of_activation {i : Instr} {s t : State} (hi : i ∈ initiatorActivations) (h : exec i s = .next t) :
    ∃ u, initiatorStep s = .next u ∧ t.host.ready = u.host.ready := by
  rcases List.mem_cons.1 hi with rfl | hrow
  · exact ⟨t, h, rfl⟩
  · obtain ⟨arm, harm, rfl⟩ := List.mem_map.1 hrow
    rw [exec_initiatorRow harm] at h
    obtain ⟨u, hu, rfl⟩ := next_of_tellArm h
    exact ⟨u, hu, rfl⟩

/-- Settles O46: an instruction tells no event, or it is an activation of the initiator, which tells one in Process. -/
theorem resultReadyOnlyFromProcess : Obligations.ResultReadyOnlyFromProcess := by
  intro i s t h
  by_cases hi : i ∈ initiatorActivations
  · obtain ⟨u, hu, hready⟩ := initiatorStep_of_activation hi h
    rw [hready]
    exact (initiatorStep_ready hu).symm.imp And.right fun ⟨hs, htold⟩ => ⟨hi, hs, htold⟩
  · exact .inl (keepsReady_exec hi s t h)

/-! ## The transitions -/

/-- Settles O47, row by row of R197: the row's condition selects an arm, and its end is that arm's. -/
theorem initiatorTransitions : Obligations.InitiatorTransitions := by
  intro s t (h : initiatorStep s = .next t) rx begun request armed disarmed
  refine ⟨fun hs => ?_, fun hs => ?_, fun hs => ?_, fun hs hb => ?_, fun hs hb hx => ?_, fun hs hb hx => ?_,
    fun hs hclosed hvalid => ?_, fun hs hclosed hvalid => ?_, fun hs hopen => ?_, fun hs => ?_, fun hs => ?_⟩
  · obtain rfl := eq_of_initiatorStep (arm := .prepare) h hs rfl
    exact ⟨rfl, rfl, rfl, rfl⟩
  · exact (initiatorTransmit_next ((initiatorStep_of_rowCondition (arm := .transmit) hs).symm.trans h)).1
  · rw [← hs]
    exact (initiatorTransmit_next ((initiatorStep_of_rowCondition (arm := .transmit) hs).symm.trans h)).2
  · obtain rfl := eq_of_initiatorStep (arm := .awaitStart) h ⟨hs, hb⟩ (congrArg _ (initiatorAwaitStart_eq s))
    exact ⟨rfl, rfl⟩
  · obtain rfl := eq_of_initiatorStep (arm := .awaitTimeout) h ⟨hs, hb, hx⟩ (congrArg _ (initiatorAwaitTimeout_eq s))
    exact ⟨rfl, rfl, rfl⟩
  · obtain rfl := eq_of_initiatorStep (arm := .awaitIdle) h ⟨hs, hb, hx⟩ rfl
    exact ⟨(decodeStep_ini_state _ s).trans hs, decodeStep_ini_deadline _ s⟩
  · obtain rfl := eq_of_initiatorStep (arm := .receive) h hs (congrArg _ (initiatorReceive_of_valid hclosed hvalid))
    exact ⟨rfl, rfl⟩
  · obtain rfl := eq_of_initiatorStep (arm := .receive) h hs (congrArg _ (initiatorReceive_of_invalid hclosed hvalid))
    exact ⟨rfl, rfl⟩
  · obtain rfl := eq_of_initiatorStep (arm := .receive) h hs (congrArg _ (initiatorReceive_of_open hopen))
    exact ⟨(decodeStep_ini_state _ s).trans hs, rfl⟩
  · obtain rfl := eq_of_initiatorStep (arm := .process) h hs rfl
    exact ⟨rfl, rfl⟩
  · rcases initiatorStep_ready h with ⟨hprocess, -⟩ | ⟨-, hready⟩
    · exact absurd hprocess hs
    · exact hready

end Sys2Proof.Machine
end

section
/-! PROOFS. `ResponderStep` arm by arm (R211 to R220): what the activation and its row do under an arm's condition, and what the
codec call of each arm leaves alone. -/

namespace Sys2Proof.Machine

/-! ## The activation under an arm's condition -/

/-- What an activation of the responder does once its arm is selected (R219). -/
def ResponderArm.run (s : State) : ResponderArm → Out
  | .waitCommand => .next (responderWaitCommand s)
  | .receive => .next (responderReceive s)
  | .process => .next (responderProcess s)
  | .replyPoll => .next (decodeStep .responder s)
  | .replyPreempt => .next (responderReplyPreempt s)
  | .replySend => responderReplySend s

theorem responderStep_of_rowCondition {arm : ResponderArm} {s : State} (h : arm.RowCondition s) :
    responderStep s = arm.run s := by
  have hsel : selectResponder s = arm := (selectResponder_eq_iff s arm).2 h
  unfold responderStep
  rw [hsel]
  cases arm <;> rfl

theorem eq_of_responderStep {arm : ResponderArm} {s t u : State} (h : responderStep s = .next t) (harm : arm.RowCondition s)
    (hrun : arm.run s = .next u) : t = u :=
  Host.Outcome.next.inj (h.symm.trans ((responderStep_of_rowCondition harm).trans hrun))

/-- The row of an arm whose condition holds ends as the arm does, with the arm's label. -/
theorem exec_responderRow_of_rowCondition {arm : ResponderArm} {s t : State} (harm : arm.RowCondition s)
    (hrun : arm.run s = .next t) : exec (responderRow arm) s = .next (t.report (.bool true) t.host.label) := by
  have hstep : exec .scriptStepR s = .next t := (responderStep_of_rowCondition harm).trans hrun
  rw [exec_responderRow, hstep, decide_eq_true ((selectResponder_eq_iff s arm).2 harm), tellArm_next]

/-! ## WaitCommand and Receive -/

section
variable {s : State}

theorem responderWaitCommand_of_not_started (hidle : (decodeStep .responder s).res.link.rx.started = false) :
    responderWaitCommand s = decodeStep .responder s := by
  simp [responderWaitCommand, hidle]

theorem responderWaitCommand_of_started (hstarted : (decodeStep .responder s).res.link.rx.started = true) :
    responderWaitCommand s = (decodeStep .responder s).setRState .receive := by
  simp [responderWaitCommand, hstarted]

theorem responderReceive_of_open (hopen : (decodeStep .responder s).res.link.rx.assembled = false) :
    responderReceive s = decodeStep .responder s := by
  simp [responderReceive, hopen]

theorem responderReceive_of_valid (hclosed : (decodeStep .responder s).res.link.rx.assembled = true)
    (hvalid : (decodeStep .responder s).res.link.rx.valid = true) :
    responderReceive s = (decodeStep .responder s).setRState .process := by
  simp [responderReceive, hclosed, hvalid]

theorem responderReceive_of_invalid (hclosed : (decodeStep .responder s).res.link.rx.assembled = true)
    (hvalid : (decodeStep .responder s).res.link.rx.valid = false) :
    responderReceive s = { decodeStep .responder s with
      res := { (decodeStep .responder s).res with
        state := .waitCommand, link := { (decodeStep .responder s).res.link with rx := rxInit s.par.n } } } := by
  rw [← decodeStep_par .responder s]
  simp only [responderReceive, hclosed, hvalid, if_true, Bool.false_eq_true, if_false]
  rfl

end

/-! ## Process -/

/-- The command processor's answer, by the numbers of the two commands (R245 to R247). -/
theorem cmdProcess_eq (c : Byte) (p : List Byte) :
    cmdProcess c p = if c = 0x01#8 then p.map (fun b => ~~~b) else if c = 0x02#8 then p.reverse else p := by
  simp only [cmdProcess, commandOf, apply_ite (Command.run · p)]
  rfl

/-- Process assigns the packet, `TxInit` of its CRC and `RxInit` (R214, R215). -/
theorem responderProcess_eq (s : State) {c : Byte} {reply : List Byte} (hc : s.res.link.result.control = c)
    (hreply : cmdProcess c s.res.link.result.payload = reply) :
    responderProcess s = State.quiet { s with
      res := { s.res with
        state := .reply
        link := { s.res.link with
          txPacket := { address := 0x01#8, control := c, payload := reply }
          tx := txInit (crc16 ([0x01#8, c] ++ reply))
          rx := rxInit s.par.n } } } := by
  subst hc hreply
  rfl

/-! ## Reply -/

@[simp] theorem decodeStep_responder_qb (s : State) : (decodeStep .responder s).qb = s.qb := by
  obtain ⟨bs, rx, result, label, hd, -⟩ := decodeStep_responder s
  simp [hd]

@[simp] theorem decodeStep_txPacket (st st' : Station) (s : State) : (decodeStep st s).txPacket st' = s.txPacket st' := by
  obtain ⟨bs, rx, result, label, hd, -⟩ := decodeStep_shape st s
  simp [hd]

theorem encodeStep_par {st : Station} {s e : State} (he : encodeStep st s = .next e) : e.par = s.par := by
  obtain ⟨sent, tx, label, rfl, -⟩ := encodeStep_shape he
  simp

/-- A preempted reply keeps its transmit context and `QB`, which the `DecodeStep` does not touch (R217). -/
theorem responderReplyPreempt_eq (s : State) :
    responderReplyPreempt s = { decodeStep .responder s with
      res := { (decodeStep .responder s).res with
        state := .receive
        link := { (decodeStep .responder s).res.link with rx := rxOpen s.par.n, tx := s.res.link.tx } }
      qb := s.qb } := by
  rw [← decodeStep_res_tx .responder s, ← decodeStep_responder_qb s]
  rfl

section
variable {s e : State} (he : encodeStep .responder s = .next e)
include he

theorem encodeStep_res_state : e.res.state = s.res.state := by
  obtain ⟨sent, tx, label, rfl, -⟩ := encodeStep_responder he
  rfl

theorem encodeStep_res_rx : e.res.link.rx = s.res.link.rx := by
  obtain ⟨sent, tx, label, rfl, -⟩ := encodeStep_responder he
  rfl

theorem responderReplySend_of_not_done (hdone : e.res.link.tx.stage ≠ .done) : responderReplySend s = .next e := by
  simp only [responderReplySend, he, andThen, if_neg hdone]

theorem responderReplySend_of_done (hdone : e.res.link.tx.stage = .done) :
    responderReplySend s = .next { e with
      res := { e.res with state := .waitCommand, link := { e.res.link with rx := rxInit s.par.n } } } := by
  rw [← encodeStep_par he]
  simp only [responderReplySend, he, andThen, if_pos hdone]
  rfl

end

theorem encodeStep_of_responderReplySend {s t : State} (h : responderReplySend s = .next t) :
    ∃ e, encodeStep .responder s = .next e := by
  unfold responderReplySend at h
  cases he : encodeStep .responder s with
  | next e => exact ⟨e, rfl⟩
  | fault | refused => rw [he] at h; cases h

/-- Where Reply has sent, the stage it ends in tells whether the reply is over (R218). -/
theorem responderReplySend_next {s t : State} (h : responderReplySend s = .next t) :
    (t.res.link.tx.stage = .done → t.res.state = .waitCommand ∧ t.res.link.rx = rxInit s.par.n) ∧
      (t.res.link.tx.stage ≠ .done → t.res.state = s.res.state ∧ t.res.link.rx = s.res.link.rx) := by
  obtain ⟨e, he⟩ := encodeStep_of_responderReplySend h
  by_cases hdone : e.res.link.tx.stage = .done
  · obtain rfl := Host.Outcome.next.inj ((responderReplySend_of_done he hdone).symm.trans h)
    exact ⟨fun _ => ⟨rfl, rfl⟩, fun hne => absurd hdone hne⟩
  · obtain rfl := Host.Outcome.next.inj ((responderReplySend_of_not_done he hdone).symm.trans h)
    exact ⟨fun heq => absurd heq hdone, fun _ => ⟨encodeStep_res_state he, encodeStep_res_rx he⟩⟩

/-! ## The arms -/

/-- Settles O48: after the `DecodeStep` the arm tests for a frame started, or for one closed and then valid. -/
theorem responderReceivesACommand : Obligations.ResponderReceivesACommand := by
  intro s d goes
  have hwait {t : State} (hs : s.res.state = .waitCommand) (hrun : responderWaitCommand s = t) :=
    exec_responderRow_of_rowCondition (arm := .waitCommand) hs (congrArg _ hrun)
  have hreceive {t : State} (hs : s.res.state = .receive) (hrun : responderReceive s = t) :=
    exec_responderRow_of_rowCondition (arm := .receive) hs (congrArg _ hrun)
  exact ⟨fun hs hidle => ⟨_, hwait hs (responderWaitCommand_of_not_started hidle)⟩,
    fun hs hstarted => ⟨_, hwait hs (responderWaitCommand_of_started hstarted)⟩,
    fun hs hopen => ⟨_, hreceive hs (responderReceive_of_open hopen)⟩,
    fun hs hclosed hvalid => ⟨_, hreceive hs (responderReceive_of_valid hclosed hvalid)⟩,
    fun hs hclosed hvalid => ⟨_, hreceive hs (responderReceive_of_invalid hclosed hvalid)⟩⟩

/-- Settles O49: `responderProcess` assigns the packet with the command processor's answer, and both contexts. -/
theorem responderProcessBuildsTheReply : Obligations.ResponderProcessBuildsTheReply := by
  intro s hs c p reply crc
  have hrow := exec_responderRow_of_rowCondition (arm := .process) hs
    (congrArg Host.Outcome.next (responderProcess_eq s rfl (cmdProcess_eq c p)))
  exact ⟨_, _, hrow⟩

/-- Settles O50: `QA` and the `DecodeStep` of its byte select the arm, and sending is one `EncodeStep` with a test for Done. -/
theorem replyPollsThenSends : Obligations.ReplyPollsThenSends := by
  intro s hs d
  refine ⟨fun hq hidle => ⟨?_, decodeStep_responder_qb s⟩, fun hq hstarted => ?_, fun hq hcursor => ?_⟩
  · exact ⟨_, exec_responderRow_of_rowCondition (arm := .replyPoll) ⟨hs, hq, Bool.eq_false_iff.1 hidle⟩ rfl⟩
  · exact ⟨_, _, exec_responderRow_of_rowCondition (arm := .replyPreempt) ⟨hs, hq, hstarted⟩
      (congrArg _ (responderReplyPreempt_eq s))⟩
  · obtain ⟨e, he⟩ := encodeStep_completes .responder s hcursor
    have hrow {t : State} (hrun : responderReplySend s = .next t) :=
      exec_responderRow_of_rowCondition (arm := .replySend) ⟨hs, hq⟩ hrun
    exact ⟨e, he, fun hdone => ⟨_, hrow (responderReplySend_of_not_done he hdone)⟩,
      fun hdone => ⟨_, hrow (responderReplySend_of_done he hdone)⟩⟩

/-! ## The transitions -/

/-- Settles O51, row by row of R220: the row's condition selects an arm, and its end is that arm's. -/
theorem responderTransitions : Obligations.ResponderTransitions := by
  intro s t (h : responderStep s = .next t) rx c p reply
  refine ⟨fun hs hstarted => ?_, fun hs hidle => ?_, fun hs hclosed hvalid => ?_, fun hs hclosed hvalid => ?_,
    fun hs hopen => ?_, fun hs => ?_, fun hs hq hstarted => ?_, fun hs hq hidle => ?_, fun hs hq => ?_, fun hs hq => ?_⟩
  · obtain rfl := eq_of_responderStep (arm := .waitCommand) h hs (congrArg _ (responderWaitCommand_of_started hstarted))
    exact ⟨rfl, rfl⟩
  · obtain rfl := eq_of_responderStep (arm := .waitCommand) h hs (congrArg _ (responderWaitCommand_of_not_started hidle))
    exact ⟨(decodeStep_res_state _ s).trans hs, rfl⟩
  · obtain rfl := eq_of_responderStep (arm := .receive) h hs (congrArg _ (responderReceive_of_valid hclosed hvalid))
    rfl
  · obtain rfl := eq_of_responderStep (arm := .receive) h hs (congrArg _ (responderReceive_of_invalid hclosed hvalid))
    exact ⟨rfl, rfl⟩
  · obtain rfl := eq_of_responderStep (arm := .receive) h hs (congrArg _ (responderReceive_of_open hopen))
    exact ⟨(decodeStep_res_state _ s).trans hs, rfl⟩
  · obtain rfl := eq_of_responderStep (arm := .process) h hs
      (congrArg _ (responderProcess_eq s rfl (cmdProcess_eq c p)))
    exact ⟨rfl, rfl, rfl, rfl, rfl, rfl⟩
  · obtain rfl := eq_of_responderStep (arm := .replyPreempt) h ⟨hs, hq, hstarted⟩
      (congrArg _ (responderReplyPreempt_eq s))
    exact ⟨rfl, rfl, rfl, decodeStep_txPacket _ .responder s, rfl⟩
  · obtain rfl := eq_of_responderStep (arm := .replyPoll) h ⟨hs, hq, Bool.eq_false_iff.1 hidle⟩ rfl
    exact ⟨(decodeStep_res_state _ s).trans hs, rfl, decodeStep_res_tx _ s, decodeStep_responder_qb s⟩
  · exact (responderReplySend_next ((responderStep_of_rowCondition (arm := .replySend) ⟨hs, hq⟩).symm.trans h)).1
  · rw [← hs]
    exact (responderReplySend_next ((responderStep_of_rowCondition (arm := .replySend) ⟨hs, hq⟩).symm.trans h)).2

end Sys2Proof.Machine
end

section
/-! PROOFS. The external collaborators as the host calls them: the queues' tests (R232, R233), the timer (R239 to R241) and the
command processor (R245 to R247). -/

namespace Sys2Proof.Machine

/-! ## The queues' tests -/

/-- A queue that holds no more than it may is full exactly when it holds `C` bytes (R231, R232). -/
theorem queueFull_eq_decide {s : State} {q : Queue} (h : (s.queue q).length ≤ s.capacity q) :
    queueFull s q = decide ((s.queue q).length = s.capacity q) :=
  decide_eq_decide.2 ⟨h.antisymm, Eq.ge⟩

theorem queueEmpty_eq_decide (s : State) (q : Queue) : queueEmpty s q = decide ((s.queue q).length = 0) := by
  rw [Bool.eq_iff_iff, queueEmpty, List.isEmpty_iff, decide_eq_true_iff, List.length_eq_zero_iff]

/-- Settles O13: the rows report the two tests, which are the comparisons of the length. -/
theorem queueTestsAnswer : Obligations.QueueTestsAnswer := by
  intro s q hle
  rw [← queueFull_eq_decide hle, ← queueEmpty_eq_decide]
  exact ⟨rfl, rfl⟩

/-! ## The timer -/

theorem isExpired_eq_decide (s : State) (dl : Deadline) : isExpired s dl =
    decide ((dl.duration : Int) ≤ ((s.clock : Int) - (dl.tStart : Int)) % (2 : Int) ^ s.par.clockW) := by
  rw [Bool.eq_iff_iff, isExpired_iff, decide_eq_true_iff]

/-- Settles O15: the clock and the deadline are told as they stand, the test by the difference of integers. -/
theorem timerOperationsAnswer : Obligations.TimerOperationsAnswer := by
  refine fun s => ⟨rfl, fun d => rfl, fun dl => ?_⟩
  rw [← isExpired_eq_decide]
  rfl

/-! ## The command processor -/

theorem cmdProcess_complement (p : List Byte) : cmdProcess 0x01#8 p = p.map (fun b => ~~~b) := cmdProcess_eq _ p

theorem cmdProcess_reverse (p : List Byte) : cmdProcess 0x02#8 p = p.reverse := cmdProcess_eq _ p

theorem cmdProcess_unknown {c : Byte} (hc : c ≠ 0x01#8) (hr : c ≠ 0x02#8) (p : List Byte) : cmdProcess c p = p := by
  rw [cmdProcess_eq, if_neg hc, if_neg hr]

/-- Settles O16: CMDPROCESS tells the processor's answer, which is read off per command; the rows of the arms tell the same
answer of their own command. -/
theorem commandProcessorAnswers : Obligations.CommandProcessorAnswers := by
  refine fun s p => ⟨fun c => ⟨cmdProcess c p, rfl, cmdProcess_length c p, ?_, ?_, fun hc hr => cmdProcess_unknown hc hr p⟩,
    rfl, rfl, fun c => rfl, ⟨_, rfl⟩, ⟨_, rfl⟩⟩
  · rintro rfl i -
    rw [cmdProcess_complement, List.getElem?_map]
  · rintro rfl i hi
    rw [cmdProcess_reverse, List.getElem?_reverse hi]

end Sys2Proof.Machine
end

section
/-! PROOFS. No station ever stops (R273): the invariants keep the cursor of a payload being sent inside the payload array, which is
all an activation needs to answer a next state. -/

namespace Sys2Proof.Machine

theorem Good.tx_ok {s : State} (h : Good s) (st : Station) : (s.tx st).Ok s.par.n := by
  obtain ⟨-, hini, hres, -⟩ := h
  cases st
  · exact hini
  · exact hres

/-- A payload byte still to be sent is one of the packet's `N` (R23, R49). -/
theorem Good.cursor_lt_payload_length {s : State} (h : Good s) (st : Station) (hstage : (s.tx st).stage = .payload) :
    (s.tx st).cursor < (s.txPacket st).payload.length := by
  obtain ⟨-, -, hroom, -⟩ := h.tx_ok st
  obtain ⟨hsized, -⟩ := h
  obtain ⟨hlen, -, -⟩ := hsized.link st
  exact (hroom hstage).trans_eq hlen.symm

theorem Good.activation_completes {s : State} (h : Good s) (st : Station) : ∃ t, exec (activation st) s = .next t := by
  cases st
  · exact initiatorStep_completes s (h.cursor_lt_payload_length .initiator)
  · exact responderStep_completes s (h.cursor_lt_payload_length .responder)

/-- The free-running schedule moves the clock and passes the turn before it activates a station; the invariants do not see it. -/
theorem Good.freeTick {s : State} (h : Good s) (turn : Station) : Good { s.freeTick with turn := turn } := by
  obtain ⟨hsized, hcontexts⟩ := h
  exact ⟨hsized.freeTick, hcontexts⟩

/-- Settles O56: both activations complete from a good state, and a step of the schedule is one from a good state too. -/
theorem stationsNeverStop : Obligations.StationsNeverStop := by
  intro s h
  refine ⟨h.activation_completes .initiator, h.activation_completes .responder, fun hp => ?_⟩
  rw [step_of_no_script hp]
  exact (h.freeTick s.turn.peer).activation_completes s.turn

end Sys2Proof.Machine
end

section
/-! PROOFS. The reset of the block (R290) and the script line that empties the queues as well (R118, R292). -/

namespace Sys2Proof.Machine

/-- Both check bytes of a transmit context created by default are zero: they are those of the CRC word 0 (R29, R133). -/
theorem txDefault_eq : txDefault =
    { stage := .startFlag, cursor := 0, fcsFirst := 0x00#8, fcsSecond := 0x00#8, escPending := false, curByte := 0x00#8 } := by
  decide

theorem exec_reset (s : State) : exec .reset s = .next (blockReset s).quiet := rfl

theorem exec_scriptReset (s : State) : exec .scriptReset s = .next { blockReset s with qa := [], qb := [] }.quiet := rfl

/-- Settles O1: both instructions assign the records `Initiator.reset` and `Responder.reset` for the payload size in force, whose
values are written out in the statement, and tell the host nothing. -/
theorem resetAssignsEveryRegister : Obligations.ResetAssignsEveryRegister := by
  intro s zero link t
  have hlink : Link.reset s.par.n = link := by
    rw [Link.reset, txDefault_eq]
    rfl
  have hblock : blockReset s = t := by
    rw [blockReset, Initiator.reset, Responder.reset, hlink]
  rw [exec_reset, exec_scriptReset, hblock]
  exact ⟨⟨.nothing, none, rfl⟩, ⟨.nothing, none, rfl⟩⟩

end Sys2Proof.Machine
end
